-- ==== Sys2Proof/Word.lean ====
section
/-!
DEFINITION. Words of the CORE's ports and of the device's registers (00_scope.md R10).
-/

namespace Sys2Proof

/-- A device register, a raw frame byte, an 8-bit port or field (10_state.md R33, R36, R44). -/
abbrev Byte := BitVec 8

/-- A one-bit port or flag: `FMT`, `VALID`, `AMPM`, `COV` and their outputs (10_state.md R33, R34). -/
abbrev Bit := BitVec 1

/-- A 32-bit scalar port, `A` or `Y` (10_state.md R33, R34). -/
abbrev Scalar := BitVec 32

/-- A 7-bit device register address (20_memory.md R71). -/
abbrev RegAddr := BitVec 7

end Sys2Proof
end

