-- ==== Sys2Proof/Syntax.lean ====
section
/-!
DEFINITION. The instructions (one constructor per row of spec/opcode_table.json), the CORE's port names and port
bundles, and the host's script lines and calls (10_state.md R33-R38, 30_encoding.md R101-R110, 48_host_interface.md).
-/

namespace Sys2Proof

/-- One constructor per row of the opcode table: 29 CORE command words (format `CMDW`, 30_encoding.md R101, R102),
then 20 device address bytes (format `DEVADDR`, R111). No row has an operand field: every operand comes from a port
of the transaction (R103) or from the host's burst (48_host_interface.md R282, R283). -/
inductive Instr where
  | bcdenc | bcddec
  | fencHs | fencSec | fencMin | fencHour | fencWday | fencDay | fencMonth | fencYear | fencStatus
  | fdecHs | fdecSec | fdecMin | fdecHour | fdecWday | fdecDay | fdecMonth | fdecYear | fdecStatus
  | frmenc | frmdec
  | leap | mdays | wday | h12to24 | h24to12 | toepoch | fromepoch
  | devrdHundredths | devrdSecond | devrdMinute | devrdHour | devrdWeekday
  | devrdDay | devrdMonth | devrdYear | devrdStatus | devrdTrickle
  | devwrHundredths | devwrSecond | devwrMinute | devwrHour | devwrWeekday
  | devwrDay | devwrMonth | devwrYear | devwrStatus | devwrTrickle
  deriving DecidableEq, Repr

/-- Which receiver a byte is presented to: the CORE's `CMD` port (30_encoding.md R100) or, after a select, the device
(R111). The same byte can mean something on each (0x80 is MDAYS on one and the write address of hundredths on the
other), so a byte is decoded for its receiver. -/
inductive Channel where
  | cmd
  | addr
  deriving DecidableEq, Repr

/-- The input ports a script line may write (10_state.md R33; `CMD` is the line's own command word). -/
inductive InPort where
  | a | b | tz | fmt | valid
  | calHs | calSec | calMin | calHr | calWd | calDay | calMon | calYr | calAmpm | calCov
  | raw (i : Fin 8)
  | stIn
  deriving DecidableEq, Repr

/-- The output ports (10_state.md R34). -/
inductive OutPort where
  | rs | y | fmtOut | ampmOut | covOut | validOut
  | calHs | calSec | calMin | calHr | calWd | calDay | calMon | calYr
  | raw (i : Fin 8)
  | stOut | stWe
  deriving DecidableEq, Repr

/-- The input bundle `CAL_IN`: a CalendarValue (10_state.md R36). The 8-bit fields may hold any value 0-255. -/
structure CalendarValue where
  hs : Byte
  sec : Byte
  min : Byte
  hr : Byte
  wd : Byte
  day : Byte
  mon : Byte
  yr : Byte
  ampm : Bit
  cov : Bit
  deriving DecidableEq, Repr

/-- The output bundle `CAL_OUT`: eight fields, no AM/PM and no cov (10_state.md R34). -/
structure CalendarOut where
  hs : Byte
  sec : Byte
  min : Byte
  hr : Byte
  wd : Byte
  day : Byte
  mon : Byte
  yr : Byte
  deriving DecidableEq, Repr

/-- A RawFrame: the eight register bytes in the order of the device addresses 0..7 (10_state.md R38). -/
structure RawFrame where
  hundredths : Byte
  second : Byte
  minute : Byte
  hour : Byte
  weekday : Byte
  day : Byte
  month : Byte
  year : Byte
  deriving DecidableEq, Repr

/-- The values standing on the CORE's input ports (10_state.md R33). -/
structure Inputs where
  cmd : Byte
  a : Scalar
  b : Byte
  tz : Byte
  fmt : Bit
  valid : Bit
  cal : CalendarValue
  raw : RawFrame
  stIn : Byte
  deriving DecidableEq, Repr

/-- The values the CORE drives on its output ports (10_state.md R34). -/
structure Outputs where
  rs : BitVec 2
  y : Scalar
  fmtOut : Bit
  ampmOut : Bit
  covOut : Bit
  validOut : Bit
  cal : CalendarOut
  raw : RawFrame
  stOut : Byte
  stWe : Bit
  deriving DecidableEq, Repr

/-- What a script line writes on a port or into a data byte: a number, an output port of an earlier line's result
(`name.PORT`), or byte `k` of an earlier device read (`name[k]`) (30_encoding.md R109). A name is a number here. An
`offset` is a value plus a constant, which the expansions `A=2000+yy` of LEAP2 and MDAYS2 write (R110). -/
inductive Operand where
  | lit (v : Nat)
  | port (name : Nat) (p : OutPort)
  | byte (name : Nat) (k : Nat)
  | offset (k : Nat) (v : Operand)
  deriving DecidableEq, Repr

/-- The host's own operations (48_host_interface.md R288-R299). An 8-bit setter argument is a byte (92_eei_decisions.md
D11); a mode, AM/PM, century or trickle code may be outside its closed set and is then rejected. -/
inductive HostCall where
  | getFormat
  | setFormat (mode : Byte)
  | getHundredths | getSecond | getMinute | getHour | getAmPm | getWeekday
  | getDay | getMonth | getCentury | getValidity | getYear
  | setHundredths (v : Byte)
  | setSecond (v : Byte)
  | setMinute (v : Byte)
  | setWeekday (v : Byte)
  | setDay (v : Byte)
  | setYear (v : Byte)
  | setHour (v : Byte)
  | setAmPm (v : Byte)
  | setMonth (v : Byte)
  | setCentury (c : Byte)
  | getEpoch (tz : Byte)
  | setEpoch (epoch : Scalar) (tz : Byte)
  | setTrickleChargerMode (code : Byte)
  deriving DecidableEq, Repr

/-- One line of a host script (30_encoding.md R109): a CORE transaction with its command word and port settings, a
device read, a device write, or a host operation. `name` binds the line's results for later lines. -/
inductive Line where
  | core (name : Option Nat) (cmd : Byte) (ports : List (InPort × Operand))
  | rd (name : Option Nat) (addr : RegAddr) (n : Nat)
  | wr (addr : RegAddr) (data : List Operand)
  | call (c : HostCall)
  deriving DecidableEq, Repr

/-- A bound result: the output ports of a CORE transaction, or the bytes of a device read (30_encoding.md R109). -/
inductive Bound where
  | outputs (o : Outputs)
  | bytes (bs : List Byte)
  deriving DecidableEq, Repr

/-- What a host operation returns: a getter's value, or a setter's outcome signal, `Changed` or `Unchanged`
(a rejection is `Unchanged`) (48_host_interface.md R290). -/
inductive HostReturn where
  | value (v : Scalar)
  | changed
  | unchanged
  deriving DecidableEq, Repr

end Sys2Proof
end

