-- ==== Sys2Proof/Config.lean ====
section
/-!
DEFINITION. What is fixed when the model is built (00_scope.md R8) and the free values (00_scope.md R13, 10_state.md
R53, R54; 48_host_interface.md R286). A free value has no body: no proof can know it, so a claim holds for every one.
-/

namespace Sys2Proof

/-- `P_VALIDITY_LOC` (00_scope.md R8): where the validity flag lives. -/
inductive ValidityLoc where
  | month
  | status
  deriving DecidableEq, Repr

/-- `P_HOUR12_RULE` (00_scope.md R8): the 12h-to-24h rule of toEpoch. -/
inductive Hour12Rule where
  | contract
  | literal
  deriving DecidableEq, Repr

/-- `P_TRICKLE_250D` (00_scope.md R8): the trickle code for 250 Ω with a diode, 0xA9 or 0x29. -/
inductive Trickle250d where
  | codeA9
  | code29
  deriving DecidableEq, Repr

/-- The four parameters of 00_scope.md R8. They stand in State so that one model covers every build; no step changes
them. -/
structure Params where
  validityLoc : ValidityLoc
  hour12Rule : Hour12Rule
  trickle250d : Trickle250d
  readFill : Byte
  deriving DecidableEq, Repr

/-- FREE VALUE: what an `UNSPEC` output port holds: a draw per port, width and transaction number (00_scope.md R13). -/
opaque Config.unspec (w : Nat) (p : OutPort) (n : Nat) : BitVec w

/-- FREE VALUE: the byte a device that is not stopped returns at draw `n` (48_host_interface.md R286). -/
opaque Config.deviceByte (n : Nat) : Byte

/-- FREE VALUE: what device register `addr` holds at power-on (10_state.md R54). -/
opaque Config.powerOn (addr : Nat) : Byte

/-- FREE VALUE: the device's address pointer before the first exchange (70_reset_and_hazards.md R372). -/
opaque Config.pointerAtPowerOn : RegAddr

/-- FREE VALUE: the default of `P_READ_FILL`, which the spec leaves OPEN (00_scope.md R8). -/
opaque Config.readFill : Byte

/-- The defaults of 00_scope.md R8. -/
def Params.default : Params where
  validityLoc := .month
  hour12Rule := .contract
  trickle250d := .codeA9
  readFill := Config.readFill

end Sys2Proof
end

