-- ==== Sys2Proof/WellFormed.lean ====
section
/-!
DEFINITION. What a well-formed instruction and a well-formed script line's settings are: legality under the parameters
(30_encoding.md R107), the ports each operation reads and drives
(R103, R104), literals that fit their port (10_state.md R33).
-/

namespace Sys2Proof

/-- Is the instruction legal under the parameters? Only `FENC.STATUS` and `FDEC.STATUS` depend on them
(30_encoding.md R107 clause 4). -/
def Instr.wf (p : Params) : Instr → Bool
  | .fencStatus => p.validityLoc == .status
  | .fdecStatus => p.validityLoc == .status
  | .bcdenc | .bcddec
  | .fencHs | .fencSec | .fencMin | .fencHour | .fencWday | .fencDay | .fencMonth | .fencYear
  | .fdecHs | .fdecSec | .fdecMin | .fdecHour | .fdecWday | .fdecDay | .fdecMonth | .fdecYear
  | .frmenc | .frmdec
  | .leap | .mdays | .wday | .h12to24 | .h24to12 | .toepoch | .fromepoch
  | .devrdHundredths | .devrdSecond | .devrdMinute | .devrdHour | .devrdWeekday
  | .devrdDay | .devrdMonth | .devrdYear | .devrdStatus | .devrdTrickle
  | .devwrHundredths | .devwrSecond | .devwrMinute | .devwrHour | .devwrWeekday
  | .devwrDay | .devwrMonth | .devwrYear | .devwrStatus | .devwrTrickle => true

/-- Which receiver the instruction's byte is for: `CMDW` rows are CORE commands, `DEVADDR` rows device address bytes. -/
def Instr.channel : Instr → Channel
  | .bcdenc | .bcddec
  | .fencHs | .fencSec | .fencMin | .fencHour | .fencWday | .fencDay | .fencMonth | .fencYear | .fencStatus
  | .fdecHs | .fdecSec | .fdecMin | .fdecHour | .fdecWday | .fdecDay | .fdecMonth | .fdecYear | .fdecStatus
  | .frmenc | .frmdec
  | .leap | .mdays | .wday | .h12to24 | .h24to12 | .toepoch | .fromepoch => .cmd
  | .devrdHundredths | .devrdSecond | .devrdMinute | .devrdHour | .devrdWeekday
  | .devrdDay | .devrdMonth | .devrdYear | .devrdStatus | .devrdTrickle
  | .devwrHundredths | .devwrSecond | .devwrMinute | .devwrHour | .devwrWeekday
  | .devwrDay | .devwrMonth | .devwrYear | .devwrStatus | .devwrTrickle => .addr

/-- The width in bits of an input port (10_state.md R33). -/
def InPort.width : InPort → Nat
  | .a => 32
  | .fmt | .valid | .calAmpm | .calCov => 1
  | .b | .tz | .calHs | .calSec | .calMin | .calHr | .calWd | .calDay | .calMon | .calYr | .raw _ | .stIn => 8

/-- The width in bits of an output port (10_state.md R34). -/
def OutPort.width : OutPort → Nat
  | .rs => 2
  | .y => 32
  | .fmtOut | .ampmOut | .covOut | .validOut | .stWe => 1
  | .calHs | .calSec | .calMin | .calHr | .calWd | .calDay | .calMon | .calYr | .raw _ | .stOut => 8

/-- The eight `RAW_IN` ports. -/
def InPort.rawAll : List InPort := [.raw 0, .raw 1, .raw 2, .raw 3, .raw 4, .raw 5, .raw 6, .raw 7]

/-- The input ports each operation reads (30_encoding.md R103). A device transaction reads no CORE port. -/
def Instr.reads : Instr → List InPort
  | .bcdenc | .bcddec => [.a]
  | .fencHs => [.calHs]
  | .fencSec => [.calSec]
  | .fencMin => [.calMin]
  | .fencHour => [.calHr, .calAmpm, .fmt]
  | .fencWday => [.calWd]
  | .fencDay => [.calDay]
  | .fencMonth => [.calMon, .calCov]
  | .fencYear => [.calYr]
  | .fencStatus => [.valid, .stIn]
  | .fdecHs | .fdecSec | .fdecMin | .fdecHour | .fdecWday | .fdecDay | .fdecMonth | .fdecYear | .fdecStatus => [.a]
  | .frmenc => [.calHs, .calSec, .calMin, .calHr, .calWd, .calDay, .calMon, .calYr, .calAmpm, .calCov, .fmt, .valid, .stIn]
  | .frmdec => InPort.rawAll ++ [.stIn]
  | .leap => [.a]
  | .mdays => [.a, .b]
  | .wday => [.a]
  | .h12to24 => [.a, .b]
  | .h24to12 => [.a]
  | .toepoch => [.calSec, .calMin, .calHr, .calDay, .calMon, .calYr, .calAmpm, .fmt, .tz]
  | .fromepoch => [.a, .fmt, .tz]
  | .devrdHundredths | .devrdSecond | .devrdMinute | .devrdHour | .devrdWeekday
  | .devrdDay | .devrdMonth | .devrdYear | .devrdStatus | .devrdTrickle
  | .devwrHundredths | .devwrSecond | .devwrMinute | .devwrHour | .devwrWeekday
  | .devwrDay | .devwrMonth | .devwrYear | .devwrStatus | .devwrTrickle => []

/-- The eight `RAW_OUT` ports. -/
def OutPort.rawAll : List OutPort := [.raw 0, .raw 1, .raw 2, .raw 3, .raw 4, .raw 5, .raw 6, .raw 7]

/-- Every output port. -/
def OutPort.all : List OutPort :=
  [.rs, .y, .fmtOut, .ampmOut, .covOut, .validOut, .calHs, .calSec, .calMin, .calHr, .calWd, .calDay, .calMon, .calYr]
    ++ OutPort.rawAll ++ [.stOut, .stWe]

/-- The output ports each operation drives beside `RS` and `ST_WE` (30_encoding.md R104). A device transaction drives no
CORE port. -/
def Instr.drives (p : Params) : Instr → List OutPort
  | .bcdenc | .bcddec | .leap | .mdays | .wday | .h12to24 | .toepoch => [.y]
  | .fencHs | .fencSec | .fencMin | .fencHour | .fencWday | .fencDay | .fencMonth | .fencYear | .fencStatus => [.y]
  | .fdecHs | .fdecSec | .fdecMin | .fdecWday | .fdecDay | .fdecYear => [.y]
  | .fdecHour => [.y, .fmtOut, .ampmOut]
  | .fdecMonth => if p.validityLoc = .month then [.y, .covOut, .validOut] else [.y, .covOut]
  | .fdecStatus => [.validOut]
  | .frmenc => OutPort.rawAll ++ [.stOut]
  | .frmdec => [.calHs, .calSec, .calMin, .calHr, .calWd, .calDay, .calMon, .calYr, .fmtOut, .ampmOut, .covOut, .validOut]
  | .h24to12 => [.y, .ampmOut]
  | .fromepoch => [.calSec, .calMin, .calHr, .calWd, .calDay, .calMon, .calYr, .ampmOut]
  | .devrdHundredths | .devrdSecond | .devrdMinute | .devrdHour | .devrdWeekday
  | .devrdDay | .devrdMonth | .devrdYear | .devrdStatus | .devrdTrickle
  | .devwrHundredths | .devwrSecond | .devwrMinute | .devwrHour | .devwrWeekday
  | .devwrDay | .devwrMonth | .devwrYear | .devwrStatus | .devwrTrickle => []

/-- A number, with the constants added to it, stays below a bound. A bound value is accepted whatever its width, since it is
not known before the run; what a value too wide does is a DESIGN CHOICE (log 20). -/
def Operand.staysBelow (bound : Nat) : Operand → Bool
  | .lit v => decide (v < bound)
  | .port _ _ => true
  | .byte _ _ => true
  | .offset k v => decide (k < bound) && v.staysBelow (bound - k)

/-- A literal fits the port it is written to (10_state.md R33). -/
def Operand.fits (width : Nat) (v : Operand) : Bool := v.staysBelow (2 ^ width)

/-- Every literal of a line's port settings fits its port. -/
def portsFit (ports : List (InPort × Operand)) : Bool :=
  ports.all fun pv => pv.2.fits pv.1.width

/-- Every port the operation reads is written by the line (30_encoding.md R109). -/
def Instr.portsWritten (i : Instr) (ports : List (InPort × Operand)) : Bool :=
  i.reads.all fun p => ports.any fun pv => pv.1 == p

/-- Every literal data byte of a `WR` line fits a byte (48_host_interface.md R283). -/
def dataFit (data : List Operand) : Bool :=
  data.all fun v => v.fits 8

end Sys2Proof
end

