-- ==== Sys2Proof/Decode.lean ====
section
/-!
DEFINITION. Decoding a CORE command word (30_encoding.md R100-R102, R107) and a device address byte (R71, R111), and
the encoder. One byte each; total on any bytes, with a name for each rejection.
-/

namespace Sys2Proof

/-- Why a byte is no instruction of the table. -/
inductive DecodeError where
  /-- R107 clause 1: `OP` is 0x0, 0xE or 0xF. -/
  | illegalOp (op : Nat)
  /-- R107 clause 2: `SEL` is not 0 for an operation without a field. -/
  | selNotZero (op sel : Nat)
  /-- R107 clause 3: `SEL` is 0x8..0xD or 0xF for FENC or FDEC. -/
  | selUndefined (op sel : Nat)
  /-- R111: the address byte names a register the document does not describe. -/
  | unnamedRegister (addr : Nat)
  /-- There is no byte to decode. -/
  | noByte
  deriving DecidableEq, Repr

/-- `OP = CMD[7:4]` (30_encoding.md R100). -/
def opField (c : Byte) : Nat := (c.extractLsb' 4 4).toNat

/-- `SEL = CMD[3:0]` (30_encoding.md R100). -/
def selField (c : Byte) : Nat := (c.extractLsb' 0 4).toNat

/-- The operation must come with `SEL = 0` (30_encoding.md R107 clause 2). -/
def decodePlain (op sel : Nat) (i : Instr) : Except DecodeError Instr :=
  if sel = 0 then .ok i else .error (.selNotZero op sel)

/-- FENC, `OP = 0x3`, by its field selector (30_encoding.md R102). -/
def decodeFenc (sel : Nat) : Except DecodeError Instr :=
  match sel with
  | 0x0 => .ok .fencHs
  | 0x1 => .ok .fencSec
  | 0x2 => .ok .fencMin
  | 0x3 => .ok .fencHour
  | 0x4 => .ok .fencWday
  | 0x5 => .ok .fencDay
  | 0x6 => .ok .fencMonth
  | 0x7 => .ok .fencYear
  | 0xE => .ok .fencStatus
  | s => .error (.selUndefined 0x3 s)

/-- FDEC, `OP = 0x4`, by its field selector (30_encoding.md R102). -/
def decodeFdec (sel : Nat) : Except DecodeError Instr :=
  match sel with
  | 0x0 => .ok .fdecHs
  | 0x1 => .ok .fdecSec
  | 0x2 => .ok .fdecMin
  | 0x3 => .ok .fdecHour
  | 0x4 => .ok .fdecWday
  | 0x5 => .ok .fdecDay
  | 0x6 => .ok .fdecMonth
  | 0x7 => .ok .fdecYear
  | 0xE => .ok .fdecStatus
  | s => .error (.selUndefined 0x4 s)

/-- A command word (30_encoding.md R101). `SEL = 0xE` decodes whatever `P_VALIDITY_LOC` is; under `MONTH` the
operation itself answers `Illegal` (R107 clause 4). -/
def decodeCmd (c : Byte) : Except DecodeError Instr :=
  let sel := selField c
  match opField c with
  | 0x1 => decodePlain 0x1 sel .bcdenc
  | 0x2 => decodePlain 0x2 sel .bcddec
  | 0x3 => decodeFenc sel
  | 0x4 => decodeFdec sel
  | 0x5 => decodePlain 0x5 sel .frmenc
  | 0x6 => decodePlain 0x6 sel .frmdec
  | 0x7 => decodePlain 0x7 sel .leap
  | 0x8 => decodePlain 0x8 sel .mdays
  | 0x9 => decodePlain 0x9 sel .wday
  | 0xA => decodePlain 0xA sel .h12to24
  | 0xB => decodePlain 0xB sel .h24to12
  | 0xC => decodePlain 0xC sel .toepoch
  | 0xD => decodePlain 0xD sel .fromepoch
  | op => .error (.illegalOp op)

/-- `addr[6:0]` of an address byte (20_memory.md R71). -/
def addrField (b : Byte) : RegAddr := b.extractLsb' 0 7

/-- `rw`, the top bit of an address byte: true means write (20_memory.md R71). -/
def isWriteAddr (b : Byte) : Bool := b.getLsbD 7

/-- A read address byte, by its register (20_memory.md R72). -/
def decodeRead (addr : Nat) : Except DecodeError Instr :=
  match addr with
  | 0x00 => .ok .devrdHundredths
  | 0x01 => .ok .devrdSecond
  | 0x02 => .ok .devrdMinute
  | 0x03 => .ok .devrdHour
  | 0x04 => .ok .devrdWeekday
  | 0x05 => .ok .devrdDay
  | 0x06 => .ok .devrdMonth
  | 0x07 => .ok .devrdYear
  | 0x0E => .ok .devrdStatus
  | 0x0F => .ok .devrdTrickle
  | a => .error (.unnamedRegister a)

/-- A write address byte, by its register (20_memory.md R72). -/
def decodeWrite (addr : Nat) : Except DecodeError Instr :=
  match addr with
  | 0x00 => .ok .devwrHundredths
  | 0x01 => .ok .devwrSecond
  | 0x02 => .ok .devwrMinute
  | 0x03 => .ok .devwrHour
  | 0x04 => .ok .devwrWeekday
  | 0x05 => .ok .devwrDay
  | 0x06 => .ok .devwrMonth
  | 0x07 => .ok .devwrYear
  | 0x0E => .ok .devwrStatus
  | 0x0F => .ok .devwrTrickle
  | a => .error (.unnamedRegister a)

/-- A device address byte `{rw, addr[6:0]}` (20_memory.md R71, 30_encoding.md R111). -/
def decodeAddr (b : Byte) : Except DecodeError Instr :=
  if isWriteAddr b then decodeWrite (addrField b).toNat else decodeRead (addrField b).toNat

/-- One byte, for its receiver. -/
def decodeByte (ch : Channel) (b : Byte) : Except DecodeError Instr :=
  match ch with
  | .cmd => decodeCmd b
  | .addr => decodeAddr b

/-- The first instruction of a list of bytes, with the rest. Every instruction is one byte long
(30_encoding.md R100, R111). -/
def decode (ch : Channel) : List Byte → Except DecodeError (Instr × List Byte)
  | [] => .error .noByte
  | b :: rest =>
    match decodeByte ch b with
    | .ok i => .ok (i, rest)
    | .error e => .error e

/-- The command word `{OP, SEL}` (30_encoding.md R100). -/
def cmdWord (op sel : Nat) : Byte := BitVec.ofNat 8 (op * 16 + sel)

/-- The address byte `{rw, addr[6:0]}` (20_memory.md R71). -/
def addrByte (write : Bool) (addr : RegAddr) : Byte := BitVec.ofBool write ++ addr

/-- The byte of an instruction: its command word or its address byte (30_encoding.md R101, R102, R111). -/
def encode : Instr → Byte
  | .bcdenc => cmdWord 0x1 0
  | .bcddec => cmdWord 0x2 0
  | .fencHs => cmdWord 0x3 0x0
  | .fencSec => cmdWord 0x3 0x1
  | .fencMin => cmdWord 0x3 0x2
  | .fencHour => cmdWord 0x3 0x3
  | .fencWday => cmdWord 0x3 0x4
  | .fencDay => cmdWord 0x3 0x5
  | .fencMonth => cmdWord 0x3 0x6
  | .fencYear => cmdWord 0x3 0x7
  | .fencStatus => cmdWord 0x3 0xE
  | .fdecHs => cmdWord 0x4 0x0
  | .fdecSec => cmdWord 0x4 0x1
  | .fdecMin => cmdWord 0x4 0x2
  | .fdecHour => cmdWord 0x4 0x3
  | .fdecWday => cmdWord 0x4 0x4
  | .fdecDay => cmdWord 0x4 0x5
  | .fdecMonth => cmdWord 0x4 0x6
  | .fdecYear => cmdWord 0x4 0x7
  | .fdecStatus => cmdWord 0x4 0xE
  | .frmenc => cmdWord 0x5 0
  | .frmdec => cmdWord 0x6 0
  | .leap => cmdWord 0x7 0
  | .mdays => cmdWord 0x8 0
  | .wday => cmdWord 0x9 0
  | .h12to24 => cmdWord 0xA 0
  | .h24to12 => cmdWord 0xB 0
  | .toepoch => cmdWord 0xC 0
  | .fromepoch => cmdWord 0xD 0
  | .devrdHundredths => addrByte false 0x00
  | .devrdSecond => addrByte false 0x01
  | .devrdMinute => addrByte false 0x02
  | .devrdHour => addrByte false 0x03
  | .devrdWeekday => addrByte false 0x04
  | .devrdDay => addrByte false 0x05
  | .devrdMonth => addrByte false 0x06
  | .devrdYear => addrByte false 0x07
  | .devrdStatus => addrByte false 0x0E
  | .devrdTrickle => addrByte false 0x0F
  | .devwrHundredths => addrByte true 0x00
  | .devwrSecond => addrByte true 0x01
  | .devwrMinute => addrByte true 0x02
  | .devwrHour => addrByte true 0x03
  | .devwrWeekday => addrByte true 0x04
  | .devwrDay => addrByte true 0x05
  | .devwrMonth => addrByte true 0x06
  | .devwrYear => addrByte true 0x07
  | .devwrStatus => addrByte true 0x0E
  | .devwrTrickle => addrByte true 0x0F

/-- The bytes of `nbits` bits of `w`, first byte first: bit 0 is the least significant bit of the first byte. -/
def tableBytes (nbits w : Nat) : List Byte :=
  (List.range ((nbits + 7) / 8)).map fun k => BitVec.ofNat 8 (w / 2 ^ (8 * k))

/-- The receiver the model takes a table word to be for, and its instruction: the CORE's command port where the byte is
a command word of the table, else the device. DESIGN CHOICE (log 3): the byte 0x80 stands in two rows of the table,
MDAYS and DEVWR.hundredths, and a word alone does not say which receiver it is for. -/
def decodeTableByte (b : Byte) : Option (Channel × Instr) :=
  match decodeByte .cmd b with
  | .ok i => some (.cmd, i)
  | .error _ =>
    match decodeByte .addr b with
    | .ok i => some (.addr, i)
    | .error _ => none

/-- The instruction the decoder reads from a word of the opcode table. -/
def decodeTableWord (nbits w : Nat) : Option Instr :=
  match tableBytes nbits w with
  | [b] => (decodeTableByte b).map (·.2)
  | _ => none

end Sys2Proof
end

