-- ==== Sys2Proof/Machine/State.lean ====
section
/-!
DEFINITION. The machine's state: the parameters, the CORE's ports, the device's register image, pointer and link, the
transport, the host's script and results. Plain data (10_state.md R30-R54, 48_host_interface.md).
-/

namespace Sys2Proof.Machine

/-- The device register image: (address, byte) cells, addresses strictly rising (10_state.md R44). An address that is
not listed has no byte the model knows: it holds what the device held at power-on, the free value `Config.powerOn`
(R54). -/
abbrev Memory := List Host.Cell

/-- The canonical form: addresses strictly rising. No listed byte can equal what an unlisted address reads as, since
that is a free value and no byte. -/
def Memory.wf : Memory → Bool
  | [] => true
  | [_] => true
  | c :: d :: rest => decide (c.1 < d.1) && Memory.wf (d :: rest)

/-- Where the device stands in an exchange (48_host_interface.md R281-R283): not selected; selected and waiting for the
address byte; sending or storing data bytes. -/
inductive Link where
  | deselected
  | address
  | reading
  | writing
  deriving DecidableEq, Repr

/-- The host's operands of a device transaction: the count `n` of a read, the bytes `v` of a write
(48_host_interface.md R282, R283). -/
structure Burst where
  count : Nat
  data : List Byte
  deriving DecidableEq, Repr

/-- Why the machine stops. -/
inductive Fault where
  /-- Raised by any byte exchange while the transport does not complete exchanges: the host is stuck
  (48_host_interface.md R287). Safe: the model stops where the spec gives the exchange no step. -/
  | exchangeIncomplete
  /-- Raised by a script line that uses a name no earlier line bound, or a byte past the end of a bound read, or a
  port of a bound read (30_encoding.md R109 gives such a line no meaning). Safe: no transaction is made up for it. -/
  | unboundName
  deriving DecidableEq, Repr

/-- Why a step has no meaning. -/
inductive Refusal where
  /-- An instruction the model has no meaning for yet (none: every arm of `exec` calls a meaning). Safe. -/
  | notModelled (mnemonic : String)
  /-- Raised by a device read or write that touches a register the document does not name, or moves no byte
  (48_host_interface.md R284: "refused: it has no step in the model"). Safe: no such burst has a successor. -/
  | burstNotAdmitted (addr n : Nat)
  /-- Raised by getCentury under `MONTH`, where there is no such accessor (48_host_interface.md R291,
  92_eei_decisions.md D43). Safe. -/
  | noCentury
  deriving DecidableEq, Repr

end Sys2Proof.Machine

namespace Sys2Proof.Machine

/-- Every port at a draw of transaction number `n` (00_scope.md R13). -/
def unspecifiedOutputs (n : Nat) : Outputs where
  rs := Config.unspec 2 .rs n
  y := Config.unspec 32 .y n
  fmtOut := Config.unspec 1 .fmtOut n
  ampmOut := Config.unspec 1 .ampmOut n
  covOut := Config.unspec 1 .covOut n
  validOut := Config.unspec 1 .validOut n
  cal :=
    { hs := Config.unspec 8 .calHs n
      sec := Config.unspec 8 .calSec n
      min := Config.unspec 8 .calMin n
      hr := Config.unspec 8 .calHr n
      wd := Config.unspec 8 .calWd n
      day := Config.unspec 8 .calDay n
      mon := Config.unspec 8 .calMon n
      yr := Config.unspec 8 .calYr n }
  raw :=
    { hundredths := Config.unspec 8 (.raw 0) n
      second := Config.unspec 8 (.raw 1) n
      minute := Config.unspec 8 (.raw 2) n
      hour := Config.unspec 8 (.raw 3) n
      weekday := Config.unspec 8 (.raw 4) n
      day := Config.unspec 8 (.raw 5) n
      month := Config.unspec 8 (.raw 6) n
      year := Config.unspec 8 (.raw 7) n }
  stOut := Config.unspec 8 .stOut n
  stWe := Config.unspec 1 .stWe n

/-- The system of host, CORE and device (00_scope.md R9). The CORE has no field of its own: it holds nothing between
transactions (10_state.md R30). -/
structure State where
  /-- The build-time parameters (00_scope.md R8); no step writes them. -/
  params : Params
  /-- The values standing on the CORE's input ports (10_state.md R33). -/
  inp : Inputs
  /-- The values the CORE's output ports hold since its last transaction (10_state.md R34). -/
  out : Outputs
  /-- The device register image: what power-on or the last completed write left (10_state.md R44, 20_memory.md R84). -/
  mem : Memory
  /-- The device's internal address pointer (10_state.md R51). -/
  ptr : RegAddr
  /-- Whether the device is selected, and what the next byte is (48_host_interface.md R281). -/
  link : Link
  /-- The premise "the device is stopped and powered" (20_memory.md R81): its registers change only by host writes. -/
  deviceStopped : Bool
  /-- The launch premise "the transport is up" (70_reset_and_hazards.md R373): byte exchanges complete. -/
  linkUp : Bool
  /-- The bytes the host has shifted out in the exchange under way (48_host_interface.md R282, R283). -/
  sent : List Byte
  /-- The model's own record: the bytes shifted out in each finished exchange, newest first. -/
  trace : List (List Byte)
  /-- The host's operands of a device transaction. -/
  burst : Burst
  /-- The bytes the last device read returned, `r[0]` first (48_host_interface.md R282). -/
  rd : List Byte
  /-- The host's script: the lines still to run, the next one first (10_state.md R32, 30_encoding.md R109). -/
  script : List Line
  /-- The results bound to names so far, newest first (30_encoding.md R109). -/
  binds : List (Nat × Bound)
  /-- What the last host operation returned (48_host_interface.md R290, R291). -/
  ret : Option HostReturn
  /-- The model's own counter of draws: the next free value's number. -/
  draws : Nat
  deriving DecidableEq, Repr

/-- No value is on the input ports before the host presents one: zeros (DESIGN CHOICE, log 5). -/
def State.resetInputs : Inputs where
  cmd := 0
  a := 0
  b := 0
  tz := 0
  fmt := 0
  valid := 0
  cal := { hs := 0, sec := 0, min := 0, hr := 0, wd := 0, day := 0, mon := 0, yr := 0, ampm := 0, cov := 0 }
  raw := { hundredths := 0, second := 0, minute := 0, hour := 0, weekday := 0, day := 0, month := 0, year := 0 }
  stIn := 0

/-- The machine at power-on (10_state.md R53, R54; 70_reset_and_hazards.md R370-R373): the default parameters, output
ports and pointer at free values, every device register at its power-on free value (nothing listed), the device
deselected and keeping time, the transport up, no script loaded. -/
def State.reset : State where
  params := Params.default
  inp := State.resetInputs
  out := unspecifiedOutputs 0
  mem := []
  ptr := Config.pointerAtPowerOn
  link := .deselected
  deviceStopped := false
  linkUp := true
  sent := []
  trace := []
  burst := { count := 0, data := [] }
  rd := []
  script := []
  binds := []
  ret := none
  draws := 1

end Sys2Proof.Machine
end

