-- ==== Sys2Proof/Machine/Ops.lean ====
section
/-!
DEFINITION. The operations every meaning is built from: answering a CORE transaction, the Illegal response, the device
register image, the byte exchange, and the two bursts MemRead and MemWrite (60_exceptions.md R341, 48_host_interface.md
R281-R287).
-/

namespace Sys2Proof.Machine

/-- The outcome type of every meaning. -/
abbrev Result := Host.Outcome State Fault Refusal

/-- Go on with the next state; a fault or a refusal ends the operation. -/
def andThen (r : Result) (f : State → Result) : Result :=
  match r with
  | .next s => f s
  | .fault e => .fault e
  | .refused e => .refused e

/-! ## Answering a CORE transaction -/

/-- `OK` = 0b00 (10_state.md R35). -/
def rsOk : BitVec 2 := 0

/-- `ILLEGAL` = 0b01 (10_state.md R35). -/
def rsIllegal : BitVec 2 := 1

/-- The outputs of a legal transaction that drives nothing: `RS` OK, `ST_WE` 0, every other port at a fresh draw
(00_scope.md R16). An operation's answer is this with the ports it drives. -/
def undriven (s : State) : Outputs :=
  { unspecifiedOutputs s.draws with rs := rsOk, stWe := 0 }

/-- The transaction's outputs appear on the output ports, and its draws are used up. Nothing else changes
(10_state.md R30). -/
def respond (s : State) (o : Outputs) : State :=
  { s with out := o, draws := s.draws + 1 }

/-- `raise Illegal(cmd)`: the CORE's one exception (00_scope.md R14, 60_exceptions.md R341). `RS` is `ILLEGAL`, `ST_WE`
is 0, every other output is a draw; nothing is saved, no mode changes, control goes nowhere (R345), and there is no
return from it (R346). -/
def raiseIllegal (s : State) : State :=
  respond s { undriven s with rs := rsIllegal }

/-! ## The device register image -/

/-- The registers the document names: 0x00-0x07, 0x0E and 0x0F (20_memory.md R72). -/
def namedRegister (addr : Nat) : Bool :=
  decide (addr ≤ 0x07) || addr == 0x0E || addr == 0x0F

/-- The byte listed at an address, if there is one. -/
def Memory.lookup : Memory → Nat → Option Byte
  | [], _ => none
  | (a, b) :: rest, addr => if a = addr then some b else Memory.lookup rest addr

/-- What a register of the image holds: the byte last written, or its power-on free value (10_state.md R54). -/
def Memory.read (m : Memory) (addr : Nat) : Byte :=
  match Memory.lookup m addr with
  | some b => b
  | none => Config.powerOn addr

/-- Store a byte, keeping the addresses strictly rising. -/
def Memory.write : Memory → Nat → Byte → Memory
  | [], addr, v => [(addr, v)]
  | (a, b) :: rest, addr, v =>
    if addr < a then (addr, v) :: (a, b) :: rest
    else if addr = a then (addr, v) :: rest
    else (a, b) :: Memory.write rest addr v

/-- A burst of `n` bytes from `addr` is admitted when it moves at least one byte and touches only named registers
(48_host_interface.md R282, R284). -/
def admitted (addr n : Nat) : Bool :=
  decide (1 ≤ n) && (List.range n).all fun k => namedRegister (addr + k)

/-! ## The transport (48_host_interface.md R281) -/

/-- `select()`: a new exchange starts from the address byte (10_state.md R51). -/
def select (s : State) : State :=
  { s with link := .address, sent := [] }

/-- `deselect()`: the exchange is over. -/
def deselect (s : State) : State :=
  { s with link := .deselected, trace := s.sent :: s.trace, sent := [] }

/-- The byte the device returns for register `addr`: a draw, because the device keeps time on its own
(48_host_interface.md R286), or, when the device is stopped and powered, what its register holds (20_memory.md R81). A
read has no side effect on the image (R81). -/
def deviceReturns (s : State) (addr : RegAddr) : Byte :=
  if s.deviceStopped then Memory.read s.mem addr.toNat else Config.deviceByte s.draws

/-- `exchangeByte(v)`: the device takes `v` as the address byte, as a byte to store, or as the fill byte of a read, and
advances its pointer by one per data byte (10_state.md R51, 48_host_interface.md R282). DESIGN CHOICE (log 18): the
source does not say what the pointer does after a byte at 0x0F, nor that it wraps (91_not_in_source.md N9); here the
7-bit sum goes on, to 0x10, and from 0x7F to 0x00. An exchange that does not complete has no step: the host is stuck
(48_host_interface.md R287). -/
def exchangeByte (v : Byte) (s : State) : Result :=
  if s.linkUp then
    match s.link with
    | .deselected => .next { s with sent := s.sent ++ [v] }
    | .address =>
      .next { s with
        sent := s.sent ++ [v]
        link := if isWriteAddr v then .writing else .reading
        ptr := addrField v }
    | .reading =>
      .next { s with
        sent := s.sent ++ [v]
        rd := s.rd ++ [deviceReturns s s.ptr]
        ptr := s.ptr + 1
        draws := s.draws + 1 }
    | .writing =>
      .next { s with
        sent := s.sent ++ [v]
        mem := Memory.write s.mem s.ptr.toNat v
        ptr := s.ptr + 1 }
  else .fault .exchangeIncomplete

/-- Exchange the bytes of a list, in order. -/
def exchangeAll : List Byte → State → Result
  | [], s => .next s
  | v :: rest, s => andThen (exchangeByte v s) (exchangeAll rest)

/-- One selected exchange: select, the address byte, the data bytes, deselect (20_memory.md R80). -/
def exchange (address : Byte) (data : List Byte) (s : State) : Result :=
  andThen (exchangeAll (address :: data) (select s)) fun t => .next (deselect t)

/-- `MemRead(addr, n)`: a device burst read, if admitted; the bytes returned are left in `rd`
(48_host_interface.md R282, R284). While reading, the host shifts out `P_READ_FILL`. -/
def memRead (addr : RegAddr) (n : Nat) (s : State) : Result :=
  if admitted addr.toNat n then
    exchange (addrByte false addr) (List.replicate n s.params.readFill) { s with rd := [] }
  else .refused (.burstNotAdmitted addr.toNat n)

/-- `MemWrite(addr, n, v)` with `n` the number of bytes of `v`: a device burst write, if admitted
(48_host_interface.md R283, R284). -/
def memWrite (addr : RegAddr) (v : List Byte) (s : State) : Result :=
  if admitted addr.toNat v.length then exchange (addrByte true addr) v s
  else .refused (.burstNotAdmitted addr.toNat v.length)

end Sys2Proof.Machine
end

