-- ==== Sys2Proof/Machine/Operands.lean ====
section
/-!
DEFINITION. Operand assembly (30_encoding.md R103): the slices of the input ports each operation reads. Bits of `A`
above a slice are ignored. Results placed in `Y` are zero-extended (R104).
-/

namespace Sys2Proof.Machine

/-- `in.A[7:0]`: the operand of BCDENC, BCDDEC, FDEC, H12TO24 and H24TO12. -/
def operandByte (s : State) : Byte := s.inp.a.extractLsb' 0 8

/-- `in.A[15:0]`: the absolute year of LEAP and MDAYS. -/
def operandYear (s : State) : Nat := (s.inp.a.extractLsb' 0 16).toNat

/-- `in.A[31:0]`: the day number of WDAY, the epoch of FROMEPOCH. -/
def operandScalar (s : State) : Nat := s.inp.a.toNat

/-- `in.B`: the month of MDAYS. -/
def operandMonth (s : State) : Nat := s.inp.b.toNat

/-- `in.B[0]`: the PM bit of H12TO24. -/
def operandPm (s : State) : Bit := s.inp.b.extractLsb' 0 1

/-- `s8(in.TZ)`: the timezone in hours, two's complement (00_scope.md R11). -/
def operandTz (s : State) : Int := s.inp.tz.toInt

/-- `zext_32` of a byte: a byte placed in `Y` is zero-extended (00_scope.md R11, 30_encoding.md R104). -/
def zext32 (b : Byte) : Scalar := b.setWidth 32

/-- `zext_32` of a one-bit value. -/
def bitToScalar (b : Bit) : Scalar := b.setWidth 32

end Sys2Proof.Machine
end

