-- ==== Sys2Proof/Machine/Flags.lean ====
section
/-!
DEFINITION. The flag bits inside register bytes (10_state.md R45, R46, R48): how each is read from a byte and packed
into one, and which of them is the validity (41_frame_codec.md R164, R165).
-/

namespace Sys2Proof.Machine

/-- H24 = 0 (10_state.md R39). -/
def fmtH24 : Bit := 0

/-- H12 = 1 (10_state.md R39). -/
def fmtH12 : Bit := 1

/-- Hour-register bit 6, the format bit (10_state.md R45). -/
def formatBit (b : Byte) : Bit := b.extractLsb' 6 1

/-- Hour-register bit 5, AM/PM in H12 (10_state.md R45). -/
def ampmBit (b : Byte) : Bit := b.extractLsb' 5 1

/-- Bit 7 of the month byte: cov (10_state.md R46). -/
def covBit (b : Byte) : Bit := b.extractLsb' 7 1

/-- `status_dec(b) = 1 - b[7]`: the status bit carries the validity inverted (41_frame_codec.md R165). -/
def statusDec (b : Byte) : Bit := ~~~ (b.extractLsb' 7 1)

/-- `status_enc(valid, st) = (st & 0x7F) | ((1 - valid) << 7)` (41_frame_codec.md R164). -/
def statusEnc (valid : Bit) (st : Byte) : Byte := (st &&& 0x7F) ||| ((~~~ valid).setWidth 8 <<< 7)

/-- The validity a frame carries: month bit 7 under `MONTH`, the inverted status bit 7 under `STATUS`
(41_frame_codec.md R165). -/
def validity (loc : ValidityLoc) (monthByte statusByte : Byte) : Bit :=
  match loc with
  | .month => covBit monthByte
  | .status => statusDec statusByte

end Sys2Proof.Machine
end

