-- ==== Sys2Proof/Machine/Bcd.lean ====
section
/-!
DEFINITION. The BCD codec: its two functions and the operations BCDENC and BCDDEC (40_bcd_codec.md R140-R143).
-/

namespace Sys2Proof.Machine

/-- `bcd_enc(v) = (((v div 10) << 4) | (v mod 10)) mod 256`, for every byte v (40_bcd_codec.md R140, 90_conflicts.md
C2). -/
def bcdEnc (v : Byte) : Byte :=
  BitVec.ofNat 8 (((v.toNat / 10) <<< 4) ||| (v.toNat % 10))

/-- `bcd_dec(b) = 10 * b[7:4] + b[3:0]`, total on all bytes, in [0,165] (40_bcd_codec.md R141, 90_conflicts.md C1). -/
def bcdDec (b : Byte) : Nat :=
  10 * (b.extractLsb' 4 4).toNat + (b.extractLsb' 0 4).toNat

/-- BCDENC (40_bcd_codec.md R142). -/
def execBcdenc (s : State) : Result :=
  .next (respond s { undriven s with y := zext32 (bcdEnc (operandByte s)) })

/-- BCDDEC (40_bcd_codec.md R143). -/
def execBcddec (s : State) : Result :=
  .next (respond s { undriven s with y := BitVec.ofNat 32 (bcdDec (operandByte s)) })

end Sys2Proof.Machine
end

