-- ==== Sys2Proof/Machine/Frame.lean ====
section
/-!
DEFINITION. The register frame codec: its functions (41_frame_codec.md R160-R167) and the operations FENC, FDEC, FRMENC
and FRMDEC (R168-R187).
-/

namespace Sys2Proof.Machine

/-! ## Functions -/

/-- `clamp(v, lo, hi) = min(max(v, lo), hi)` (41_frame_codec.md R160). -/
def clamp (v lo hi : Nat) : Nat := min (max v lo) hi

/-- A field clamped to its range, then BCD-encoded (41_frame_codec.md R161, R166). -/
def encClamped (v : Byte) (lo hi : Nat) : Byte := bcdEnc (BitVec.ofNat 8 (clamp v.toNat lo hi))

/-- `hour_enc(fmt, hr, ampm)` (41_frame_codec.md R162). -/
def hourEnc (fmt : Bit) (hr : Byte) (ampm : Bit) : Byte :=
  if fmt = fmtH24 then encClamped hr 0 23
  else encClamped hr 1 12 ||| (ampm.setWidth 8 <<< 5) ||| (1 <<< 6)

/-- `hour_dec(b)`: the hour, the format bit of the byte itself, and AM/PM (0 in H24) (41_frame_codec.md R163). -/
def hourDec (b : Byte) : Nat × Bit × Bit :=
  if formatBit b = fmtH24 then (bcdDec (b &&& 0x3F), fmtH24, 0)
  else (bcdDec (b &&& 0x1F), fmtH12, ampmBit b)

/-- `month_enc(mon, cov)` (41_frame_codec.md R164). -/
def monthEnc (mon : Byte) (cov : Bit) : Byte := encClamped mon 1 12 ||| (cov.setWidth 8 <<< 7)

/-- `month_dec(b) = (bcd_dec(b & 0x7F), b[7])` (41_frame_codec.md R165). -/
def monthDec (b : Byte) : Nat × Bit := (bcdDec (b &&& 0x7F), covBit b)

/-- `RAW_OUT` of FRMENC: `field_enc(i, ...)` for i = 0..7 (41_frame_codec.md R166, R186). -/
def frameEnc (cal : CalendarValue) (fmt : Bit) : RawFrame where
  hundredths := encClamped cal.hs 0 99
  second := encClamped cal.sec 0 59
  minute := encClamped cal.min 0 59
  hour := hourEnc fmt cal.hr cal.ampm
  weekday := encClamped cal.wd 1 7
  day := encClamped cal.day 1 31
  month := monthEnc cal.mon cal.cov
  year := encClamped cal.yr 0 99

/-- `CAL_OUT` of FRMDEC: each byte decoded, nothing clamped (41_frame_codec.md R167, R187). A decoded value is at most
165, so it fits its 8-bit port. -/
def frameDec (raw : RawFrame) : CalendarOut where
  hs := BitVec.ofNat 8 (bcdDec raw.hundredths)
  sec := BitVec.ofNat 8 (bcdDec raw.second)
  min := BitVec.ofNat 8 (bcdDec raw.minute)
  hr := BitVec.ofNat 8 (hourDec raw.hour).1
  wd := BitVec.ofNat 8 (bcdDec raw.weekday)
  day := BitVec.ofNat 8 (bcdDec raw.day)
  mon := BitVec.ofNat 8 (monthDec raw.month).1
  yr := BitVec.ofNat 8 (bcdDec raw.year)

/-! ## Single-field encode -/

/-- A FENC transaction drives `Y` with the encoded byte and nothing else (41_frame_codec.md section 2). -/
def respondEncoded (s : State) (b : Byte) : Result :=
  .next (respond s { undriven s with y := zext32 b })

/-- FENC.HS (41_frame_codec.md R168). -/
def execFencHs (s : State) : Result := respondEncoded s (encClamped s.inp.cal.hs 0 99)

/-- FENC.SEC (41_frame_codec.md R169). -/
def execFencSec (s : State) : Result := respondEncoded s (encClamped s.inp.cal.sec 0 59)

/-- FENC.MIN (41_frame_codec.md R170). -/
def execFencMin (s : State) : Result := respondEncoded s (encClamped s.inp.cal.min 0 59)

/-- FENC.HOUR (41_frame_codec.md R171). -/
def execFencHour (s : State) : Result :=
  respondEncoded s (hourEnc s.inp.fmt s.inp.cal.hr s.inp.cal.ampm)

/-- FENC.WDAY (41_frame_codec.md R172). -/
def execFencWday (s : State) : Result := respondEncoded s (encClamped s.inp.cal.wd 1 7)

/-- FENC.DAY (41_frame_codec.md R173). -/
def execFencDay (s : State) : Result := respondEncoded s (encClamped s.inp.cal.day 1 31)

/-- FENC.MONTH (41_frame_codec.md R174). -/
def execFencMonth (s : State) : Result := respondEncoded s (monthEnc s.inp.cal.mon s.inp.cal.cov)

/-- FENC.YEAR (41_frame_codec.md R175). -/
def execFencYear (s : State) : Result := respondEncoded s (encClamped s.inp.cal.yr 0 99)

/-- FENC.STATUS: legal only under `STATUS`, else the Illegal response (41_frame_codec.md R176, 30_encoding.md R107). -/
def execFencStatus (s : State) : Result :=
  match s.params.validityLoc with
  | .status => respondEncoded s (statusEnc s.inp.valid s.inp.stIn)
  | .month => .next (raiseIllegal s)

/-! ## Single-field decode -/

/-- A straight FDEC transaction: `Y` is `bcd_dec` of all 8 bits of `A[7:0]` (41_frame_codec.md R167). -/
def respondStraight (s : State) : Result :=
  .next (respond s { undriven s with y := BitVec.ofNat 32 (bcdDec (operandByte s)) })

/-- FDEC.HS (41_frame_codec.md R177). -/
def execFdecHs (s : State) : Result := respondStraight s

/-- FDEC.SEC (41_frame_codec.md R178). -/
def execFdecSec (s : State) : Result := respondStraight s

/-- FDEC.MIN (41_frame_codec.md R179). -/
def execFdecMin (s : State) : Result := respondStraight s

/-- FDEC.HOUR (41_frame_codec.md R180). -/
def execFdecHour (s : State) : Result :=
  let d := hourDec (operandByte s)
  .next (respond s { undriven s with y := BitVec.ofNat 32 d.1, fmtOut := d.2.1, ampmOut := d.2.2 })

/-- FDEC.WDAY (41_frame_codec.md R181). -/
def execFdecWday (s : State) : Result := respondStraight s

/-- FDEC.DAY (41_frame_codec.md R182). -/
def execFdecDay (s : State) : Result := respondStraight s

/-- FDEC.MONTH: `VALID_OUT` is driven under `MONTH` only (41_frame_codec.md R183). -/
def execFdecMonth (s : State) : Result :=
  let d := monthDec (operandByte s)
  let o := { undriven s with y := BitVec.ofNat 32 d.1, covOut := d.2 }
  match s.params.validityLoc with
  | .month => .next (respond s { o with validOut := d.2 })
  | .status => .next (respond s o)

/-- FDEC.YEAR (41_frame_codec.md R184). -/
def execFdecYear (s : State) : Result := respondStraight s

/-- FDEC.STATUS: legal only under `STATUS`; drives `VALID_OUT` alone (41_frame_codec.md R185). -/
def execFdecStatus (s : State) : Result :=
  match s.params.validityLoc with
  | .status => .next (respond s { undriven s with validOut := statusDec (operandByte s) })
  | .month => .next (raiseIllegal s)

/-! ## Whole frame -/

/-- FRMENC: the eight bytes; under `STATUS` the status byte with `ST_WE` = 1, under `MONTH` `ST_IN` passed through with
`ST_WE` = 0 (41_frame_codec.md R186). -/
def execFrmenc (s : State) : Result :=
  let o := { undriven s with raw := frameEnc s.inp.cal s.inp.fmt }
  match s.params.validityLoc with
  | .status => .next (respond s { o with stOut := statusEnc s.inp.valid s.inp.stIn, stWe := 1 })
  | .month => .next (respond s { o with stOut := s.inp.stIn, stWe := 0 })

/-- FRMDEC: every field decoded and the four flags (41_frame_codec.md R187). -/
def execFrmdec (s : State) : Result :=
  let h := hourDec s.inp.raw.hour
  .next (respond s { undriven s with
    cal := frameDec s.inp.raw
    fmtOut := h.2.1
    ampmOut := h.2.2
    covOut := (monthDec s.inp.raw.month).2
    validOut := validity s.params.validityLoc s.inp.raw.month s.inp.stIn })

end Sys2Proof.Machine
end

