-- ==== Sys2Proof/Machine/Epoch.lean ====
section
/-!
DEFINITION. The epoch converter: its functions (42_epoch_converter.md R220-R228) and its seven operations (R229-R235).
Arithmetic is on unbounded integers until a `u32` is written.
-/

namespace Sys2Proof.Machine

/-! ## Functions -/

/-- `SECS_PER_DAY` (42_epoch_converter.md R220). -/
def secsPerDay : Nat := 86400

/-- `SECS_PER_HOUR` (42_epoch_converter.md R220). -/
def secsPerHour : Nat := 3600

/-- `EPOCH_YEAR` (42_epoch_converter.md R220). -/
def epochYear : Nat := 1970

/-- `YEAR_OFFSET`: years-since-1970 = YR + 30 (42_epoch_converter.md R220). -/
def yearOffset : Nat := 30

/-- The month-length table `ML` (42_epoch_converter.md R220). -/
def monthTable : List Nat := [31, 28, 31, 30, 31, 30, 31, 31, 30, 31, 30, 31]

/-- `is_leap(y)` (42_epoch_converter.md R221). -/
def isLeap (y : Nat) : Bool := y % 4 == 0 && (y % 100 != 0 || y % 400 == 0)

/-- `year_len(y)` (42_epoch_converter.md R221). -/
def yearLen (y : Nat) : Nat := 365 + (if isLeap y then 1 else 0)

/-- `month_len(y, m)` for m in [1,12]; no rule calls it outside (42_epoch_converter.md R222). -/
def monthLen (y m : Nat) : Nat :=
  if m = 2 ∧ isLeap y then 29 else monthTable.getD (m - 1) 0

/-- `weekday(days)`, 1 = Sunday .. 7 = Saturday (42_epoch_converter.md R223). -/
def weekday (days : Nat) : Nat := (days + 4) % 7 + 1

/-- `h12to24(h, pm)` under either rule (42_epoch_converter.md R224). -/
def h12to24 (rule : Hour12Rule) (h : Nat) (pm : Bit) : Nat :=
  match rule with
  | .contract => h % 12 + (if pm = 1 then 12 else 0)
  | .literal => h + (if pm = 1 then 12 else 0)

/-- `h24to12(h)` for h in [0,23], with its AM/PM bit; no rule calls it above (42_epoch_converter.md R225). -/
def h24to12 (h : Nat) : Nat × Bit :=
  if h = 0 then (12, 0)
  else if h ≤ 11 then (h, 0)
  else if h = 12 then (12, 1)
  else (h - 12, 1)

/-- How many of the `n` years from 1970 on are leap years: the loop of toEpoch step 4 (42_epoch_converter.md R226). -/
def leapYears : Nat → Nat
  | 0 => 0
  | n + 1 => leapYears n + (if isLeap (epochYear + n) then 1 else 0)

/-- The days of the first `n` months of year `y`: the loop of toEpoch step 5 (42_epoch_converter.md R226). -/
def monthDays (y : Nat) : Nat → Nat
  | 0 => 0
  | n + 1 => monthDays y n + monthLen y (n + 1)

/-- The hour toEpoch uses: converted in H12, as it is in H24 (42_epoch_converter.md R226 step 2). -/
def toEpochHour (rule : Hour12Rule) (cal : CalendarValue) (fmt : Bit) : Nat :=
  if fmt = fmtH12 then h12to24 rule cal.hr.toNat cal.ampm else cal.hr.toNat

/-- The unwrapped sum of toEpoch, steps 1-6 (42_epoch_converter.md R226). -/
def toEpochSum (rule : Hour12Rule) (cal : CalendarValue) (fmt : Bit) (tz : Int) : Int :=
  let ys := cal.yr.toNat + yearOffset
  let y := epochYear + ys
  let toGmt : Int := -(tz * secsPerHour)
  toGmt
    + (ys * 365 * secsPerDay : Nat)
    + (leapYears ys * secsPerDay : Nat)
    + (monthDays y (cal.mon.toNat - 1) * secsPerDay : Nat)
    + ((cal.day.toNat : Int) - 1) * secsPerDay
    + (toEpochHour rule cal fmt * 3600 + cal.min.toNat * 60 + cal.sec.toNat : Nat)

/-- `toepoch(cal, fmt, tz)`: the sum modulo 2^32, or no value (`UNSPEC`) for a month outside [1,12]
(42_epoch_converter.md R226). -/
def toEpoch (rule : Hour12Rule) (cal : CalendarValue) (fmt : Bit) (tz : Int) : Option Scalar :=
  if cal.mon.toNat < 1 ∨ cal.mon.toNat > 12 then none
  else some (BitVec.ofInt 32 (toEpochSum rule cal fmt tz))

/-- The year loop of fromEpoch step 5, from year `y` with `d` days left: whole years are consumed while they fit. The
first argument bounds the number of years (42_epoch_converter.md R228). -/
def yearLoop : Nat → Nat → Nat → Nat × Nat
  | 0, y, d => (y, d)
  | fuel + 1, y, d => if yearLen y ≤ d then yearLoop fuel (y + 1) (d - yearLen y) else (y, d)

/-- The month loop of fromEpoch step 6 (42_epoch_converter.md R228). -/
def monthLoop (y : Nat) : Nat → Nat → Nat → Nat × Nat
  | 0, m, d => (m, d)
  | fuel + 1, m, d => if monthLen y m ≤ d then monthLoop y fuel (m + 1) (d - monthLen y m) else (m, d)

/-- What fromEpoch returns; `yr` is `none` where the year is `UNSPEC` (42_epoch_converter.md R228). -/
structure EpochFields where
  sec : Nat
  min : Nat
  hr : Nat
  ampm : Bit
  wd : Nat
  day : Nat
  mon : Nat
  yr : Option Nat
  deriving DecidableEq, Repr

/-- Steps 2-6 of fromEpoch on a local time in range (42_epoch_converter.md R228). A year is at least 365 days, so
`days / 365 + 1` bounds the year loop; a year has 12 months. -/
def localFields (loc : Nat) (fmt : Bit) : EpochFields :=
  let hr := loc / 3600 % 24
  let h := if fmt = fmtH12 then h24to12 hr else (hr, 0)
  let days := loc / secsPerDay
  let yd := yearLoop (days / 365 + 1) epochYear days
  let md := monthLoop yd.1 12 1 yd.2
  let blocks := yd.1 - epochYear
  { sec := loc % 60
    min := loc / 60 % 60
    hr := h.1
    ampm := h.2
    wd := weekday days
    day := md.2 + 1
    mon := md.1
    yr := if 30 ≤ blocks ∧ blocks ≤ 129 then some (blocks - yearOffset) else none }

/-- `fromepoch(e, fmt, tz)`: no value (`UNSPEC`, every field) when the localized epoch is outside [0, 2^32)
(42_epoch_converter.md R228). -/
def fromEpoch (e : Nat) (fmt : Bit) (tz : Int) : Option EpochFields :=
  let loc : Int := e + tz * secsPerHour
  if loc < 0 ∨ 2 ^ 32 ≤ loc then none else some (localFields loc.toNat fmt)

/-! ## Operations -/

/-- LEAP (42_epoch_converter.md R229). -/
def execLeap (s : State) : Result :=
  .next (respond s { undriven s with y := if isLeap (operandYear s) then 1 else 0 })

/-- MDAYS: `Y` is not driven for a month outside [1,12] (42_epoch_converter.md R230). -/
def execMdays (s : State) : Result :=
  let m := operandMonth s
  if 1 ≤ m ∧ m ≤ 12 then
    .next (respond s { undriven s with y := BitVec.ofNat 32 (monthLen (operandYear s) m) })
  else .next (respond s (undriven s))

/-- WDAY (42_epoch_converter.md R231). -/
def execWday (s : State) : Result :=
  .next (respond s { undriven s with y := BitVec.ofNat 32 (weekday (operandScalar s)) })

/-- H12TO24 (42_epoch_converter.md R232). -/
def execH12to24 (s : State) : Result :=
  .next (respond s { undriven s with
    y := BitVec.ofNat 32 (h12to24 s.params.hour12Rule (operandByte s).toNat (operandPm s)) })

/-- H24TO12: neither output is driven for an hour above 23 (42_epoch_converter.md R233). -/
def execH24to12 (s : State) : Result :=
  let h := (operandByte s).toNat
  if h ≤ 23 then
    .next (respond s { undriven s with y := BitVec.ofNat 32 (h24to12 h).1, ampmOut := (h24to12 h).2 })
  else .next (respond s (undriven s))

/-- TOEPOCH: `Y` is not driven where toepoch has no value (42_epoch_converter.md R234). -/
def execToepoch (s : State) : Result :=
  match toEpoch s.params.hour12Rule s.inp.cal s.inp.fmt (operandTz s) with
  | some e => .next (respond s { undriven s with y := e })
  | none => .next (respond s (undriven s))

/-- The calendar ports FROMEPOCH drives: all but `HS`, and `YR` only where it has a value (42_epoch_converter.md
R235). -/
def driveCalendar (c : CalendarOut) (r : EpochFields) : CalendarOut :=
  { c with
    sec := BitVec.ofNat 8 r.sec
    min := BitVec.ofNat 8 r.min
    hr := BitVec.ofNat 8 r.hr
    wd := BitVec.ofNat 8 r.wd
    day := BitVec.ofNat 8 r.day
    mon := BitVec.ofNat 8 r.mon
    yr := match r.yr with
      | some y => BitVec.ofNat 8 y
      | none => c.yr }

/-- FROMEPOCH (42_epoch_converter.md R235). -/
def execFromepoch (s : State) : Result :=
  match fromEpoch (operandScalar s) s.inp.fmt (operandTz s) with
  | some r =>
    .next (respond s { undriven s with cal := driveCalendar (undriven s).cal r, ampmOut := r.ampm })
  | none => .next (respond s (undriven s))

end Sys2Proof.Machine
end

