-- ==== Sys2Proof/Machine/Device.lean ====
section
/-!
DEFINITION. The device transactions: what the host's address bytes start (48_host_interface.md R282, R283). A read moves
the host's count of bytes, a write the host's bytes, from the register the address byte names.
-/

namespace Sys2Proof.Machine

/-- DEVRD.hundredths: `MemRead(0x00, n)` (48_host_interface.md R282). -/
def execDevrdHundredths (s : State) : Result := memRead 0x00 s.burst.count s

/-- DEVRD.second: `MemRead(0x01, n)` (48_host_interface.md R282). -/
def execDevrdSecond (s : State) : Result := memRead 0x01 s.burst.count s

/-- DEVRD.minute: `MemRead(0x02, n)` (48_host_interface.md R282). -/
def execDevrdMinute (s : State) : Result := memRead 0x02 s.burst.count s

/-- DEVRD.hour: `MemRead(0x03, n)` (48_host_interface.md R282). -/
def execDevrdHour (s : State) : Result := memRead 0x03 s.burst.count s

/-- DEVRD.weekday: `MemRead(0x04, n)` (48_host_interface.md R282). -/
def execDevrdWeekday (s : State) : Result := memRead 0x04 s.burst.count s

/-- DEVRD.day: `MemRead(0x05, n)` (48_host_interface.md R282). -/
def execDevrdDay (s : State) : Result := memRead 0x05 s.burst.count s

/-- DEVRD.month: `MemRead(0x06, n)` (48_host_interface.md R282). -/
def execDevrdMonth (s : State) : Result := memRead 0x06 s.burst.count s

/-- DEVRD.year: `MemRead(0x07, n)` (48_host_interface.md R282). -/
def execDevrdYear (s : State) : Result := memRead 0x07 s.burst.count s

/-- DEVRD.status: `MemRead(0x0E, n)` (48_host_interface.md R282). -/
def execDevrdStatus (s : State) : Result := memRead 0x0E s.burst.count s

/-- DEVRD.trickle: `MemRead(0x0F, n)` (48_host_interface.md R282). -/
def execDevrdTrickle (s : State) : Result := memRead 0x0F s.burst.count s

/-- DEVWR.hundredths: `MemWrite(0x00, n, v)` (48_host_interface.md R283). -/
def execDevwrHundredths (s : State) : Result := memWrite 0x00 s.burst.data s

/-- DEVWR.second: `MemWrite(0x01, n, v)` (48_host_interface.md R283). -/
def execDevwrSecond (s : State) : Result := memWrite 0x01 s.burst.data s

/-- DEVWR.minute: `MemWrite(0x02, n, v)` (48_host_interface.md R283). -/
def execDevwrMinute (s : State) : Result := memWrite 0x02 s.burst.data s

/-- DEVWR.hour: `MemWrite(0x03, n, v)` (48_host_interface.md R283). -/
def execDevwrHour (s : State) : Result := memWrite 0x03 s.burst.data s

/-- DEVWR.weekday: `MemWrite(0x04, n, v)` (48_host_interface.md R283). -/
def execDevwrWeekday (s : State) : Result := memWrite 0x04 s.burst.data s

/-- DEVWR.day: `MemWrite(0x05, n, v)` (48_host_interface.md R283). -/
def execDevwrDay (s : State) : Result := memWrite 0x05 s.burst.data s

/-- DEVWR.month: `MemWrite(0x06, n, v)` (48_host_interface.md R283). -/
def execDevwrMonth (s : State) : Result := memWrite 0x06 s.burst.data s

/-- DEVWR.year: `MemWrite(0x07, n, v)` (48_host_interface.md R283). -/
def execDevwrYear (s : State) : Result := memWrite 0x07 s.burst.data s

/-- DEVWR.status: `MemWrite(0x0E, n, v)` (48_host_interface.md R283). -/
def execDevwrStatus (s : State) : Result := memWrite 0x0E s.burst.data s

/-- DEVWR.trickle: `MemWrite(0x0F, n, v)` (48_host_interface.md R283). -/
def execDevwrTrickle (s : State) : Result := memWrite 0x0F s.burst.data s

end Sys2Proof.Machine
end

