-- ==== Sys2Proof/Machine/Dispatch.lean ====
section
/-!
DEFINITION. The dispatch: one arm per constructor of `Instr`, each one call of that instruction's meaning.
-/

namespace Sys2Proof.Machine

def exec (i : Instr) (s : State) : Host.Outcome State Fault Refusal :=
  match i with
  | .bcdenc => Sys2Proof.Machine.execBcdenc s
  | .bcddec => Sys2Proof.Machine.execBcddec s
  | .fencHs => Sys2Proof.Machine.execFencHs s
  | .fencSec => Sys2Proof.Machine.execFencSec s
  | .fencMin => Sys2Proof.Machine.execFencMin s
  | .fencHour => Sys2Proof.Machine.execFencHour s
  | .fencWday => Sys2Proof.Machine.execFencWday s
  | .fencDay => Sys2Proof.Machine.execFencDay s
  | .fencMonth => Sys2Proof.Machine.execFencMonth s
  | .fencYear => Sys2Proof.Machine.execFencYear s
  | .fencStatus => Sys2Proof.Machine.execFencStatus s
  | .fdecHs => Sys2Proof.Machine.execFdecHs s
  | .fdecSec => Sys2Proof.Machine.execFdecSec s
  | .fdecMin => Sys2Proof.Machine.execFdecMin s
  | .fdecHour => Sys2Proof.Machine.execFdecHour s
  | .fdecWday => Sys2Proof.Machine.execFdecWday s
  | .fdecDay => Sys2Proof.Machine.execFdecDay s
  | .fdecMonth => Sys2Proof.Machine.execFdecMonth s
  | .fdecYear => Sys2Proof.Machine.execFdecYear s
  | .fdecStatus => Sys2Proof.Machine.execFdecStatus s
  | .frmenc => Sys2Proof.Machine.execFrmenc s
  | .frmdec => Sys2Proof.Machine.execFrmdec s
  | .leap => Sys2Proof.Machine.execLeap s
  | .mdays => Sys2Proof.Machine.execMdays s
  | .wday => Sys2Proof.Machine.execWday s
  | .h12to24 => Sys2Proof.Machine.execH12to24 s
  | .h24to12 => Sys2Proof.Machine.execH24to12 s
  | .toepoch => Sys2Proof.Machine.execToepoch s
  | .fromepoch => Sys2Proof.Machine.execFromepoch s
  | .devrdHundredths => Sys2Proof.Machine.execDevrdHundredths s
  | .devrdSecond => Sys2Proof.Machine.execDevrdSecond s
  | .devrdMinute => Sys2Proof.Machine.execDevrdMinute s
  | .devrdHour => Sys2Proof.Machine.execDevrdHour s
  | .devrdWeekday => Sys2Proof.Machine.execDevrdWeekday s
  | .devrdDay => Sys2Proof.Machine.execDevrdDay s
  | .devrdMonth => Sys2Proof.Machine.execDevrdMonth s
  | .devrdYear => Sys2Proof.Machine.execDevrdYear s
  | .devrdStatus => Sys2Proof.Machine.execDevrdStatus s
  | .devrdTrickle => Sys2Proof.Machine.execDevrdTrickle s
  | .devwrHundredths => Sys2Proof.Machine.execDevwrHundredths s
  | .devwrSecond => Sys2Proof.Machine.execDevwrSecond s
  | .devwrMinute => Sys2Proof.Machine.execDevwrMinute s
  | .devwrHour => Sys2Proof.Machine.execDevwrHour s
  | .devwrWeekday => Sys2Proof.Machine.execDevwrWeekday s
  | .devwrDay => Sys2Proof.Machine.execDevwrDay s
  | .devwrMonth => Sys2Proof.Machine.execDevwrMonth s
  | .devwrYear => Sys2Proof.Machine.execDevwrYear s
  | .devwrStatus => Sys2Proof.Machine.execDevwrStatus s
  | .devwrTrickle => Sys2Proof.Machine.execDevwrTrickle s

end Sys2Proof.Machine
end

