-- ==== Sys2Proof/Machine/HostOps.lean ====
section
/-!
DEFINITION. The host's operations around the CORE (48_host_interface.md R288-R299): format state, field accessors,
epoch accessors and the trickle charger. Each uses the CORE only through command words and the device only through
MemRead and MemWrite.
-/

namespace Sys2Proof.Machine

/-! ## CORE transactions -/

/-- The CORE answers the command word on its `CMD` port: a legal word runs its operation, any other word gets the Illegal
response (30_encoding.md R107, 60_exceptions.md R341, R344). -/
def coreTransaction (s : State) : Result :=
  match decodeCmd s.inp.cmd with
  | .ok i => exec i s
  | .error _ => .next (raiseIllegal s)

/-- The host presents a command word with the port values `inp`, and the CORE answers. -/
def issue (cmd : Byte) (inp : Inputs) (s : State) : Result :=
  coreTransaction { s with inp := { inp with cmd := cmd } }

/-- A transaction whose only operand is `A`. -/
def issueA (cmd : Byte) (a : Scalar) (s : State) : Result :=
  issue cmd { s.inp with a := a } s

/-- A transaction whose operands are calendar fields, the other ports as they stand. -/
def issueCal (cmd : Byte) (cal : CalendarValue) (s : State) : Result :=
  issue cmd { s.inp with cal := cal } s

/-! ## Single-register accesses and returns -/

/-- `MemRead(addr, 1)[0]`, handed to what follows. A read of one byte returns one byte. -/
def withRegister (addr : RegAddr) (s : State) (f : Byte → State → Result) : Result :=
  andThen (memRead addr 1 s) fun t => f (t.rd.headD 0) t

/-- What the caller of a host operation reads: a setter's signal, `Changed` = 1 or `Unchanged` = 0 (a rejection is the same
signal as `Unchanged`), or a getter's value (48_host_interface.md R290, R291). -/
def returnSignal : HostReturn → Nat
  | .changed => 1
  | .unchanged => 0
  | .value v => v.toNat

/-- The host operation returns. -/
def returnWith (r : HostReturn) (s : State) : Result := .next { s with ret := some r }

/-- A getter's return of a scalar. -/
def returnValue (v : Scalar) (s : State) : Result := returnWith (.value v) s

/-- The 7-bit addresses of the registers the accessors use (20_memory.md R72). -/
def regHour : RegAddr := 0x03

/-- Register 0x06. -/
def regMonth : RegAddr := 0x06

/-- Register 0x0E. -/
def regStatus : RegAddr := 0x0E

/-- Register 0x0F. -/
def regTrickle : RegAddr := 0x0F

/-- `assertValid()`: a further read-modify-write that sets the validity flag true (48_host_interface.md R296). -/
def assertValid (s : State) : Result :=
  match s.params.validityLoc with
  | .month => withRegister regMonth s fun b t => memWrite regMonth [b ||| 0x80] t
  | .status =>
    withRegister regStatus s fun st t =>
      andThen (issue 0x3E { t.inp with valid := 1, stIn := st } t) fun u =>
        memWrite regStatus [u.out.y.setWidth 8] u

/-- Write one register, set the validity flag true, and return `Changed`. -/
def writeField (addr : RegAddr) (b : Byte) (s : State) : Result :=
  andThen (memWrite addr [b] s) fun t => andThen (assertValid t) (returnWith .changed)

/-! ## Format state -/

/-- getFormat (48_host_interface.md R288). -/
def hostGetFormat (s : State) : Result :=
  withRegister regHour s fun b t =>
    andThen (issueA 0x43 (zext32 b) t) fun u => returnValue (bitToScalar u.out.fmtOut) u

/-- setFormat(mode): flips bit 6 of the hour register only (48_host_interface.md R289). -/
def hostSetFormat (mode : Byte) (s : State) : Result :=
  if mode = 0 ∨ mode = 1 then
    withRegister regHour s fun b t =>
      if (formatBit b).setWidth 8 = mode then returnWith .unchanged t
      else writeField regHour ((b &&& 0xBF) ||| (mode <<< 6)) t
  else returnWith .unchanged s

/-! ## Getters (48_host_interface.md R291) -/

/-- Read one register and decode it with an FDEC command; the result is picked from the outputs. -/
def hostGet (addr : RegAddr) (cmd : Byte) (pick : Outputs → Scalar) (s : State) : Result :=
  withRegister addr s fun b t =>
    andThen (issueA cmd (zext32 b) t) fun u => returnValue (pick u.out) u

/-- getValidity: `ISVALID` of register 0x06 or 0x0E, by where the flag lives (48_host_interface.md R291, 30_encoding.md
R110). -/
def hostGetValidity (s : State) : Result :=
  match s.params.validityLoc with
  | .month => hostGet regMonth 0x46 (fun o => bitToScalar o.validOut) s
  | .status => hostGet regStatus 0x4E (fun o => bitToScalar o.validOut) s

/-- getCentury exists under `STATUS` only (48_host_interface.md R291, 92_eei_decisions.md D43). -/
def hostGetCentury (s : State) : Result :=
  match s.params.validityLoc with
  | .month => .refused .noCentury
  | .status => hostGet regMonth 0x46 (fun o => bitToScalar o.covOut) s

/-! ## Setters -/

/-- A plain setter: read and decode the register; if the value is the stored one, no write; else encode, write and
re-assert validity (48_host_interface.md R292). `put` writes the value into its `CAL_IN` field. -/
def hostSetPlain (addr : RegAddr) (dec enc : Byte) (put : CalendarValue → Byte → CalendarValue) (v : Byte)
    (s : State) : Result :=
  withRegister addr s fun b t =>
    andThen (issueA dec (zext32 b) t) fun u =>
      if zext32 v = u.out.y then returnWith .unchanged u
      else
        andThen (issueCal enc (put u.inp.cal v) u) fun w => writeField addr (w.out.y.setWidth 8) w

/-- setHour: the stored format and AM/PM bit are kept (48_host_interface.md R293). -/
def hostSetHour (v : Byte) (s : State) : Result :=
  withRegister regHour s fun b t =>
    andThen (issueA 0x43 (zext32 b) t) fun u =>
      if zext32 v = u.out.y then returnWith .unchanged u
      else
        andThen (issue 0x33 { u.inp with fmt := u.out.fmtOut, cal := { u.inp.cal with hr := v, ampm := u.out.ampmOut } } u)
          fun w => writeField regHour (w.out.y.setWidth 8) w

/-- setAmPm: rejected in H24 and for a code that is neither AM nor PM (48_host_interface.md R294). -/
def hostSetAmPm (v : Byte) (s : State) : Result :=
  withRegister regHour s fun b t =>
    andThen (issueA 0x43 (zext32 b) t) fun u =>
      if u.out.fmtOut = fmtH24 then returnWith .unchanged u
      else if ¬ (v = 0 ∨ v = 1) then returnWith .unchanged u
      else if v = u.out.ampmOut.setWidth 8 then returnWith .unchanged u
      else
        andThen
          (issue 0x33
            { u.inp with
              fmt := fmtH12
              cal := { u.inp.cal with hr := u.out.y.setWidth 8, ampm := v.setWidth 1 } }
            u)
          fun w => writeField regHour (w.out.y.setWidth 8) w

/-- setMonth: the sibling bit is kept (48_host_interface.md R295). -/
def hostSetMonth (v : Byte) (s : State) : Result :=
  withRegister regMonth s fun b t =>
    andThen (issueA 0x46 (zext32 b) t) fun u =>
      if zext32 v = u.out.y then returnWith .unchanged u
      else
        andThen (issueCal 0x36 { u.inp.cal with mon := v, cov := u.out.covOut } u)
          fun w => writeField regMonth (w.out.y.setWidth 8) w

/-- setCentury: rejected under `MONTH` and outside {0, 1}; the month digits are kept (48_host_interface.md R295). -/
def hostSetCentury (c : Byte) (s : State) : Result :=
  match s.params.validityLoc with
  | .month => returnWith .unchanged s
  | .status =>
    if c = 0 ∨ c = 1 then
      withRegister regMonth s fun b t =>
        if (covBit b).setWidth 8 = c then returnWith .unchanged t
        else writeField regMonth ((b &&& 0x7F) ||| (c <<< 7)) t
    else returnWith .unchanged s

/-! ## Epoch accessors (48_host_interface.md R297) -/

/-- The bytes of a frame read as a RawFrame. A frame read returns eight bytes. -/
def frameOfBytes (bs : List Byte) : RawFrame where
  hundredths := bs.getD 0 0
  second := bs.getD 1 0
  minute := bs.getD 2 0
  hour := bs.getD 3 0
  weekday := bs.getD 4 0
  day := bs.getD 5 0
  month := bs.getD 6 0
  year := bs.getD 7 0

/-- The bytes of a RawFrame in the order of their addresses (20_memory.md R74). -/
def bytesOfFrame (f : RawFrame) : List Byte :=
  [f.hundredths, f.second, f.minute, f.hour, f.weekday, f.day, f.month, f.year]

/-- `CAL_OUT` as a `CAL_IN`, with the hundredths, AM/PM and cov the host supplies. -/
def calendarWith (c : CalendarOut) (hs : Byte) (ampm cov : Bit) : CalendarValue :=
  { hs := hs, sec := c.sec, min := c.min, hr := c.hr, wd := c.wd, day := c.day, mon := c.mon, yr := c.yr,
    ampm := ampm, cov := cov }

/-- The status byte, read under `STATUS` and 0 under `MONTH`. -/
def withStatusByte (s : State) (f : Byte → State → Result) : Result :=
  match s.params.validityLoc with
  | .month => f 0 s
  | .status => withRegister regStatus s f

/-- getEpoch(tz) (48_host_interface.md R297). -/
def hostGetEpoch (tz : Byte) (s : State) : Result :=
  andThen (memRead 0x00 8 s) fun t =>
    let raw := frameOfBytes t.rd
    withStatusByte t fun st u =>
      andThen (issue 0x60 { u.inp with raw := raw, stIn := st } u) fun v =>
        let d := v.out
        andThen
          (issue 0xC0
            { v.inp with cal := calendarWith d.cal d.cal.hs d.ampmOut v.inp.cal.cov, fmt := d.fmtOut, tz := tz } v)
          fun w => returnValue w.out.y w

/-- The local time is outside 2000-01-01 .. 2099-12-31 (48_host_interface.md R297). -/
def epochOutside (epoch : Scalar) (tz : Byte) : Bool :=
  let loc : Int := epoch.toNat + tz.toInt * 3600
  decide (loc < 946684800) || decide (4102444799 < loc)

/-- The cov setEpoch writes: 1 under `MONTH`, the century bit as stored under `STATUS` (48_host_interface.md R297). -/
def withCov (s : State) (f : Bit → State → Result) : Result :=
  match s.params.validityLoc with
  | .month => f 1 s
  | .status =>
    withRegister regMonth s fun b t => andThen (issueA 0x46 (zext32 b) t) fun u => f u.out.covOut u

/-- setEpoch(epoch, tz) (48_host_interface.md R297). -/
def hostSetEpoch (epoch : Scalar) (tz : Byte) (s : State) : Result :=
  if epochOutside epoch tz then returnWith .unchanged s
  else
    withRegister regHour s fun b t =>
      andThen (issueA 0x43 (zext32 b) t) fun g =>
        let fmt := g.out.fmtOut
        andThen (issue 0xD0 { g.inp with a := epoch, fmt := fmt, tz := tz } g) fun u =>
          let c := u.out
          withCov u fun cov v =>
            withStatusByte v fun st w =>
              andThen
                (issue 0x50 { w.inp with cal := calendarWith c.cal 0 c.ampmOut cov, fmt := fmt, valid := 1, stIn := st } w)
                fun x =>
                  andThen (memWrite 0x00 (bytesOfFrame x.out.raw) x) fun y =>
                    andThen (assertValid y) (returnWith .changed)

/-! ## Trickle charger (48_host_interface.md R298, R299) -/

/-- The code of "250 Ω + diode": the parameter `P_TRICKLE_250D` (48_host_interface.md R298). -/
def trickle250dCode : Trickle250d → Byte
  | .codeA9 => 0xA9
  | .code29 => 0x29

/-- The closed set of trickle-charger mode codes (48_host_interface.md R298). -/
def trickleCodes (p : Params) : List Byte :=
  [0x00, 0xA5, trickle250dCode p.trickle250d, 0xA6, 0xAA, 0xA7, 0xAB]

/-- setTrickleChargerMode(code): no validity re-assertion follows (48_host_interface.md R299). -/
def hostSetTrickle (code : Byte) (s : State) : Result :=
  if code ∈ trickleCodes s.params then
    withRegister regTrickle s fun b t =>
      if b = code then returnWith .unchanged t
      else andThen (memWrite regTrickle [code] t) (returnWith .changed)
  else returnWith .unchanged s

/-! ## All calls -/

/-- A host operation runs to completion before the next begins (48_host_interface.md R280). -/
def runCall (c : HostCall) (s : State) : Result :=
  match c with
  | .getFormat => hostGetFormat s
  | .setFormat mode => hostSetFormat mode s
  | .getHundredths => hostGet 0x00 0x40 (·.y) s
  | .getSecond => hostGet 0x01 0x41 (·.y) s
  | .getMinute => hostGet 0x02 0x42 (·.y) s
  | .getHour => hostGet 0x03 0x43 (·.y) s
  | .getAmPm => hostGet 0x03 0x43 (fun o => bitToScalar o.ampmOut) s
  | .getWeekday => hostGet 0x04 0x44 (·.y) s
  | .getDay => hostGet 0x05 0x45 (·.y) s
  | .getMonth => hostGet 0x06 0x46 (·.y) s
  | .getCentury => hostGetCentury s
  | .getValidity => hostGetValidity s
  | .getYear => hostGet 0x07 0x47 (·.y) s
  | .setHundredths v => hostSetPlain 0x00 0x40 0x30 (fun c x => { c with hs := x }) v s
  | .setSecond v => hostSetPlain 0x01 0x41 0x31 (fun c x => { c with sec := x }) v s
  | .setMinute v => hostSetPlain 0x02 0x42 0x32 (fun c x => { c with min := x }) v s
  | .setWeekday v => hostSetPlain 0x04 0x44 0x34 (fun c x => { c with wd := x }) v s
  | .setDay v => hostSetPlain 0x05 0x45 0x35 (fun c x => { c with day := x }) v s
  | .setYear v => hostSetPlain 0x07 0x47 0x37 (fun c x => { c with yr := x }) v s
  | .setHour v => hostSetHour v s
  | .setAmPm v => hostSetAmPm v s
  | .setMonth v => hostSetMonth v s
  | .setCentury c => hostSetCentury c s
  | .getEpoch tz => hostGetEpoch tz s
  | .setEpoch epoch tz => hostSetEpoch epoch tz s
  | .setTrickleChargerMode code => hostSetTrickle code s

end Sys2Proof.Machine
end

