-- ==== Sys2Proof/Machine/Script.lean ====
section
/-!
DEFINITION. Host scripts: the value of an operand, the port settings of a line, and what one line does (30_encoding.md
R109, R110; 48_host_interface.md R282, R283).
-/

namespace Sys2Proof.Machine

/-- Put a value on an input port; it is the port's width wide (10_state.md R33). DESIGN CHOICE (log 20): the spec does not
say what a wider value does; here its low bits stand on the port. -/
def setPort (inp : Inputs) (p : InPort) (v : Nat) : Inputs :=
  match p with
  | .a => { inp with a := BitVec.ofNat 32 v }
  | .b => { inp with b := BitVec.ofNat 8 v }
  | .tz => { inp with tz := BitVec.ofNat 8 v }
  | .fmt => { inp with fmt := BitVec.ofNat 1 v }
  | .valid => { inp with valid := BitVec.ofNat 1 v }
  | .calHs => { inp with cal := { inp.cal with hs := BitVec.ofNat 8 v } }
  | .calSec => { inp with cal := { inp.cal with sec := BitVec.ofNat 8 v } }
  | .calMin => { inp with cal := { inp.cal with min := BitVec.ofNat 8 v } }
  | .calHr => { inp with cal := { inp.cal with hr := BitVec.ofNat 8 v } }
  | .calWd => { inp with cal := { inp.cal with wd := BitVec.ofNat 8 v } }
  | .calDay => { inp with cal := { inp.cal with day := BitVec.ofNat 8 v } }
  | .calMon => { inp with cal := { inp.cal with mon := BitVec.ofNat 8 v } }
  | .calYr => { inp with cal := { inp.cal with yr := BitVec.ofNat 8 v } }
  | .calAmpm => { inp with cal := { inp.cal with ampm := BitVec.ofNat 1 v } }
  | .calCov => { inp with cal := { inp.cal with cov := BitVec.ofNat 1 v } }
  | .raw 0 => { inp with raw := { inp.raw with hundredths := BitVec.ofNat 8 v } }
  | .raw 1 => { inp with raw := { inp.raw with second := BitVec.ofNat 8 v } }
  | .raw 2 => { inp with raw := { inp.raw with minute := BitVec.ofNat 8 v } }
  | .raw 3 => { inp with raw := { inp.raw with hour := BitVec.ofNat 8 v } }
  | .raw 4 => { inp with raw := { inp.raw with weekday := BitVec.ofNat 8 v } }
  | .raw 5 => { inp with raw := { inp.raw with day := BitVec.ofNat 8 v } }
  | .raw 6 => { inp with raw := { inp.raw with month := BitVec.ofNat 8 v } }
  | .raw 7 => { inp with raw := { inp.raw with year := BitVec.ofNat 8 v } }
  | .stIn => { inp with stIn := BitVec.ofNat 8 v }

/-- The value on an input port (10_state.md R33). -/
def getPort (inp : Inputs) (p : InPort) : Nat :=
  match p with
  | .a => inp.a.toNat
  | .b => inp.b.toNat
  | .tz => inp.tz.toNat
  | .fmt => inp.fmt.toNat
  | .valid => inp.valid.toNat
  | .calHs => inp.cal.hs.toNat
  | .calSec => inp.cal.sec.toNat
  | .calMin => inp.cal.min.toNat
  | .calHr => inp.cal.hr.toNat
  | .calWd => inp.cal.wd.toNat
  | .calDay => inp.cal.day.toNat
  | .calMon => inp.cal.mon.toNat
  | .calYr => inp.cal.yr.toNat
  | .calAmpm => inp.cal.ampm.toNat
  | .calCov => inp.cal.cov.toNat
  | .raw 0 => inp.raw.hundredths.toNat
  | .raw 1 => inp.raw.second.toNat
  | .raw 2 => inp.raw.minute.toNat
  | .raw 3 => inp.raw.hour.toNat
  | .raw 4 => inp.raw.weekday.toNat
  | .raw 5 => inp.raw.day.toNat
  | .raw 6 => inp.raw.month.toNat
  | .raw 7 => inp.raw.year.toNat
  | .stIn => inp.stIn.toNat

/-- The value on an output port (10_state.md R34). -/
def outPort (o : Outputs) (p : OutPort) : Nat :=
  match p with
  | .rs => o.rs.toNat
  | .y => o.y.toNat
  | .fmtOut => o.fmtOut.toNat
  | .ampmOut => o.ampmOut.toNat
  | .covOut => o.covOut.toNat
  | .validOut => o.validOut.toNat
  | .calHs => o.cal.hs.toNat
  | .calSec => o.cal.sec.toNat
  | .calMin => o.cal.min.toNat
  | .calHr => o.cal.hr.toNat
  | .calWd => o.cal.wd.toNat
  | .calDay => o.cal.day.toNat
  | .calMon => o.cal.mon.toNat
  | .calYr => o.cal.yr.toNat
  | .raw 0 => o.raw.hundredths.toNat
  | .raw 1 => o.raw.second.toNat
  | .raw 2 => o.raw.minute.toNat
  | .raw 3 => o.raw.hour.toNat
  | .raw 4 => o.raw.weekday.toNat
  | .raw 5 => o.raw.day.toNat
  | .raw 6 => o.raw.month.toNat
  | .raw 7 => o.raw.year.toNat
  | .stOut => o.stOut.toNat
  | .stWe => o.stWe.toNat

/-- The newest result bound to a name. -/
def lookupBound (binds : List (Nat × Bound)) (name : Nat) : Option Bound :=
  (binds.find? fun nb => nb.1 == name).map (·.2)

/-- The value of an operand: a number, `name.PORT`, `name[k]`, or one of them plus a constant; none where the name does
not have it (30_encoding.md R109, R110). -/
def operandValue (binds : List (Nat × Bound)) : Operand → Option Nat
  | .lit v => some v
  | .port name p =>
    match lookupBound binds name with
    | some (.outputs o) => some (outPort o p)
    | some (.bytes _) => none
    | none => none
  | .byte name k =>
    match lookupBound binds name with
    | some (.bytes bs) => (bs[k]?).map (·.toNat)
    | some (.outputs _) => none
    | none => none
  | .offset k v => (operandValue binds v).map (k + ·)

/-- The input ports after a line's settings; a port the line does not write keeps its value (10_state.md R33: an
operation ignores the ports it does not read). DESIGN CHOICE (log 19): 30_encoding.md R109 does not say what a line that
writes one port twice means; here the later setting stands. -/
def applyPorts (binds : List (Nat × Bound)) : List (InPort × Operand) → Inputs → Option Inputs
  | [], inp => some inp
  | (p, v) :: rest, inp =>
    match operandValue binds v with
    | some x => applyPorts binds rest (setPort inp p x)
    | none => none

/-- The data bytes of a `WR` line. DESIGN CHOICE (log 20): the spec does not say what a value wider than a byte, such as a
bound 32-bit `name.Y`, stores; here its low 8 bits. -/
def dataBytes (binds : List (Nat × Bound)) : List Operand → Option (List Byte)
  | [] => some []
  | v :: rest =>
    match operandValue binds v, dataBytes binds rest with
    | some x, some bs => some (BitVec.ofNat 8 x :: bs)
    | _, _ => none

/-- Bind a line's result to its name, if it has one. -/
def bindName (name : Option Nat) (b : Bound) (s : State) : State :=
  match name with
  | some k => { s with binds := (k, b) :: s.binds }
  | none => s

/-- The host sends an address byte with the burst's operands: the device transaction the byte names, or, for a register
the document does not name, none (30_encoding.md R111, 48_host_interface.md R284). -/
def deviceTransaction (address : Byte) (s : State) : Result :=
  match decodeAddr address with
  | .ok i => exec i s
  | .error _ =>
    .refused (.burstNotAdmitted (addrField address).toNat
      (if isWriteAddr address then s.burst.data.length else s.burst.count))

/-- What one line of a host script does (30_encoding.md R109): a CORE transaction, a device read, a device write, or a
host operation, run to completion (48_host_interface.md R280). -/
def runLine (l : Line) (s : State) : Result :=
  match l with
  | .core name cmd ports =>
    match applyPorts s.binds ports s.inp with
    | some inp =>
      andThen (issue cmd inp s) fun t => .next (bindName name (.outputs t.out) t)
    | none => .fault .unboundName
  | .rd name addr n =>
    andThen (deviceTransaction (addrByte false addr) { s with burst := { count := n, data := [] } }) fun t =>
      .next (bindName name (.bytes t.rd) t)
  | .wr addr data =>
    match dataBytes s.binds data with
    | some bs => deviceTransaction (addrByte true addr) { s with burst := { count := bs.length, data := bs } }
    | none => .fault .unboundName
  | .call c => runCall c s

/-- A well-formed script line (30_encoding.md R109, 48_host_interface.md R282-R284): a core line writes every port its
operation reads with numbers that fit, and a device line is an admitted burst. A bound value is accepted whatever its width
(log 20). An illegal command word reads no port; the host may issue one (R300). -/
def Line.wf : Line → Bool
  | .core _ cmd ports =>
    portsFit ports &&
      match decodeCmd cmd with
      | .ok i => i.portsWritten ports
      | .error _ => true
  | .rd _ addr n => admitted addr.toNat n
  | .wr addr data => admitted addr.toNat data.length && dataFit data
  | .call _ => true

/-! ## Pseudo-instructions (30_encoding.md R110) -/

/-- `GETFMT A=b` is `FDEC.HOUR A=b`. -/
def pseudoGetfmt (name : Option Nat) (b : Operand) : Line := .core name 0x43 [(.a, b)]

/-- `ISVALID A=b` is `FDEC.MONTH A=b` under `MONTH`, `FDEC.STATUS A=b` under `STATUS`. -/
def pseudoIsvalid (p : Params) (name : Option Nat) (b : Operand) : Line :=
  match p.validityLoc with
  | .month => .core name 0x46 [(.a, b)]
  | .status => .core name 0x4E [(.a, b)]

/-- `LEAP2 A=yy` is `LEAP A=2000+yy`. -/
def pseudoLeap2 (name : Option Nat) (yy : Operand) : Line := .core name 0x70 [(.a, .offset 2000 yy)]

/-- `MDAYS2 A=yy, B=m` is `MDAYS A=2000+yy, B=m`. -/
def pseudoMdays2 (name : Option Nat) (yy m : Operand) : Line :=
  .core name 0x80 [(.a, .offset 2000 yy), (.b, m)]

end Sys2Proof.Machine
end

