-- ==== Sys2Proof/Machine/Step.lean ====
section
/-!
DEFINITION. One step: the host takes the next line of its script and runs it (10_state.md R32). With no line left the
host issues nothing and nothing changes.
-/

namespace Sys2Proof.Machine

/-- One step of the system. -/
def step (s : State) : Host.Outcome State Fault Refusal :=
  match s.script with
  | [] => .next s
  | l :: rest => runLine l { s with script := rest }

/-- The script line that presents a byte of the opcode table to its receiver: a command word with the port values that
stand, a read of one byte, or a write of one zero byte. -/
def presentByte (b : Byte) : Line :=
  match decodeTableByte b with
  | some (.addr, _) => if isWriteAddr b then .wr (addrField b) [.lit 0] else .rd none (addrField b) 1
  | _ => .core none b []

/-- The state with a word of the opcode table as the host's next line (log 4). -/
def State.withFetchWord (s : State) (nbits w : Nat) : State :=
  match tableBytes nbits w with
  | [b] => { s with script := presentByte b :: s.script }
  | _ => s

end Sys2Proof.Machine
end

