-- ==== Sys2Proof/Safety.lean ====
section
/-!
DEFINITION. The terms safety claims are stated in: the system invariant every step keeps, and when a line runs without a
stop.
-/

namespace Sys2Proof.Machine

/-- Every listed register is one the document names (10_state.md R50: nothing reads or writes the others). -/
def onlyNamed (m : Memory) : Bool := m.all fun c => namedRegister c.1

/-- The system invariant between host lines: the device image is in canonical form and lists named registers only
(10_state.md R50), and the device is deselected with no byte of an exchange outstanding (20_memory.md R80, 48 R287). -/
def SystemInv (s : State) : Prop :=
  Memory.wf s.mem = true ∧ onlyNamed s.mem = true ∧ s.link = .deselected ∧ s.sent = []

/-- Nothing but the CORE's output ports and the draw counter differs: what a CORE transaction leaves unchanged
(10_state.md R30, 20_memory.md R70). -/
def CoreFrame (s t : State) : Prop := t = { s with out := t.out, draws := s.draws + 1 }

/-- Is the command word legal under the parameters (30_encoding.md R107)? -/
def legalWord (p : Params) (c : Byte) : Bool :=
  match decodeCmd c with
  | .ok i => i.wf p
  | .error _ => false

/-- The premise "the device is stopped and powered" together with "the transport is up" (20_memory.md R81,
70_reset_and_hazards.md R373). -/
def Quiet (s : State) : Prop := s.deviceStopped = true ∧ s.linkUp = true

/-- A result is a next state: no fault and no refusal. -/
def completes (r : Result) : Prop := ∃ t, r = .next t

/-- Every name an operand uses is bound to a value of that kind. -/
def operandBound (binds : List (Nat × Bound)) (v : Operand) : Bool := (operandValue binds v).isSome

/-- Every name a line uses is bound (30_encoding.md R109). -/
def lineBound (binds : List (Nat × Bound)) : Line → Bool
  | .core _ _ ports => ports.all fun pv => operandBound binds pv.2
  | .rd _ _ _ => true
  | .wr _ data => data.all (operandBound binds)
  | .call _ => true

/-- The number of device writes among the exchanges recorded: those whose address byte has the write bit set
(20_memory.md R71). -/
def writeCount (trace : List (List Byte)) : Nat :=
  trace.countP fun x =>
    match x with
    | a :: _ => isWriteAddr a
    | [] => false

end Sys2Proof.Machine
end

