-- ==== Sys2Proof/Laws/State.lean ====
section
/-!
SUPPORT. One lemma per field per named update of State, and per port of an answer nothing is driven on: all true by rfl.
-/

namespace Sys2Proof.Machine

@[simp] theorem respond_params (s : State) (o : Outputs) : (respond s o).params = s.params := rfl
@[simp] theorem respond_inp (s : State) (o : Outputs) : (respond s o).inp = s.inp := rfl
@[simp] theorem respond_out (s : State) (o : Outputs) : (respond s o).out = o := rfl
@[simp] theorem respond_mem (s : State) (o : Outputs) : (respond s o).mem = s.mem := rfl
@[simp] theorem respond_ptr (s : State) (o : Outputs) : (respond s o).ptr = s.ptr := rfl
@[simp] theorem respond_link (s : State) (o : Outputs) : (respond s o).link = s.link := rfl
@[simp] theorem respond_deviceStopped (s : State) (o : Outputs) : (respond s o).deviceStopped = s.deviceStopped := rfl
@[simp] theorem respond_linkUp (s : State) (o : Outputs) : (respond s o).linkUp = s.linkUp := rfl
@[simp] theorem respond_sent (s : State) (o : Outputs) : (respond s o).sent = s.sent := rfl
@[simp] theorem respond_trace (s : State) (o : Outputs) : (respond s o).trace = s.trace := rfl
@[simp] theorem respond_burst (s : State) (o : Outputs) : (respond s o).burst = s.burst := rfl
@[simp] theorem respond_rd (s : State) (o : Outputs) : (respond s o).rd = s.rd := rfl
@[simp] theorem respond_script (s : State) (o : Outputs) : (respond s o).script = s.script := rfl
@[simp] theorem respond_binds (s : State) (o : Outputs) : (respond s o).binds = s.binds := rfl
@[simp] theorem respond_ret (s : State) (o : Outputs) : (respond s o).ret = s.ret := rfl
@[simp] theorem respond_draws (s : State) (o : Outputs) : (respond s o).draws = s.draws + 1 := rfl

@[simp] theorem raiseIllegal_params (s : State) : (raiseIllegal s).params = s.params := rfl
@[simp] theorem raiseIllegal_inp (s : State) : (raiseIllegal s).inp = s.inp := rfl
@[simp] theorem raiseIllegal_out (s : State) : (raiseIllegal s).out = { undriven s with rs := rsIllegal } := rfl
@[simp] theorem raiseIllegal_mem (s : State) : (raiseIllegal s).mem = s.mem := rfl
@[simp] theorem raiseIllegal_ptr (s : State) : (raiseIllegal s).ptr = s.ptr := rfl
@[simp] theorem raiseIllegal_link (s : State) : (raiseIllegal s).link = s.link := rfl
@[simp] theorem raiseIllegal_deviceStopped (s : State) : (raiseIllegal s).deviceStopped = s.deviceStopped := rfl
@[simp] theorem raiseIllegal_linkUp (s : State) : (raiseIllegal s).linkUp = s.linkUp := rfl
@[simp] theorem raiseIllegal_sent (s : State) : (raiseIllegal s).sent = s.sent := rfl
@[simp] theorem raiseIllegal_trace (s : State) : (raiseIllegal s).trace = s.trace := rfl
@[simp] theorem raiseIllegal_burst (s : State) : (raiseIllegal s).burst = s.burst := rfl
@[simp] theorem raiseIllegal_rd (s : State) : (raiseIllegal s).rd = s.rd := rfl
@[simp] theorem raiseIllegal_script (s : State) : (raiseIllegal s).script = s.script := rfl
@[simp] theorem raiseIllegal_binds (s : State) : (raiseIllegal s).binds = s.binds := rfl
@[simp] theorem raiseIllegal_ret (s : State) : (raiseIllegal s).ret = s.ret := rfl
@[simp] theorem raiseIllegal_draws (s : State) : (raiseIllegal s).draws = s.draws + 1 := rfl

@[simp] theorem select_params (s : State) : (select s).params = s.params := rfl
@[simp] theorem select_inp (s : State) : (select s).inp = s.inp := rfl
@[simp] theorem select_out (s : State) : (select s).out = s.out := rfl
@[simp] theorem select_mem (s : State) : (select s).mem = s.mem := rfl
@[simp] theorem select_ptr (s : State) : (select s).ptr = s.ptr := rfl
@[simp] theorem select_link (s : State) : (select s).link = .address := rfl
@[simp] theorem select_deviceStopped (s : State) : (select s).deviceStopped = s.deviceStopped := rfl
@[simp] theorem select_linkUp (s : State) : (select s).linkUp = s.linkUp := rfl
@[simp] theorem select_sent (s : State) : (select s).sent = [] := rfl
@[simp] theorem select_trace (s : State) : (select s).trace = s.trace := rfl
@[simp] theorem select_burst (s : State) : (select s).burst = s.burst := rfl
@[simp] theorem select_rd (s : State) : (select s).rd = s.rd := rfl
@[simp] theorem select_script (s : State) : (select s).script = s.script := rfl
@[simp] theorem select_binds (s : State) : (select s).binds = s.binds := rfl
@[simp] theorem select_ret (s : State) : (select s).ret = s.ret := rfl
@[simp] theorem select_draws (s : State) : (select s).draws = s.draws := rfl

@[simp] theorem deselect_params (s : State) : (deselect s).params = s.params := rfl
@[simp] theorem deselect_inp (s : State) : (deselect s).inp = s.inp := rfl
@[simp] theorem deselect_out (s : State) : (deselect s).out = s.out := rfl
@[simp] theorem deselect_mem (s : State) : (deselect s).mem = s.mem := rfl
@[simp] theorem deselect_ptr (s : State) : (deselect s).ptr = s.ptr := rfl
@[simp] theorem deselect_link (s : State) : (deselect s).link = .deselected := rfl
@[simp] theorem deselect_deviceStopped (s : State) : (deselect s).deviceStopped = s.deviceStopped := rfl
@[simp] theorem deselect_linkUp (s : State) : (deselect s).linkUp = s.linkUp := rfl
@[simp] theorem deselect_sent (s : State) : (deselect s).sent = [] := rfl
@[simp] theorem deselect_trace (s : State) : (deselect s).trace = s.sent :: s.trace := rfl
@[simp] theorem deselect_burst (s : State) : (deselect s).burst = s.burst := rfl
@[simp] theorem deselect_rd (s : State) : (deselect s).rd = s.rd := rfl
@[simp] theorem deselect_script (s : State) : (deselect s).script = s.script := rfl
@[simp] theorem deselect_binds (s : State) : (deselect s).binds = s.binds := rfl
@[simp] theorem deselect_ret (s : State) : (deselect s).ret = s.ret := rfl
@[simp] theorem deselect_draws (s : State) : (deselect s).draws = s.draws := rfl

@[simp] theorem bindName_params (n : Option Nat) (b : Bound) (s : State) : (bindName n b s).params = s.params := by
  cases n <;> rfl
@[simp] theorem bindName_inp (n : Option Nat) (b : Bound) (s : State) : (bindName n b s).inp = s.inp := by
  cases n <;> rfl
@[simp] theorem bindName_out (n : Option Nat) (b : Bound) (s : State) : (bindName n b s).out = s.out := by
  cases n <;> rfl
@[simp] theorem bindName_mem (n : Option Nat) (b : Bound) (s : State) : (bindName n b s).mem = s.mem := by
  cases n <;> rfl
@[simp] theorem bindName_ptr (n : Option Nat) (b : Bound) (s : State) : (bindName n b s).ptr = s.ptr := by
  cases n <;> rfl
@[simp] theorem bindName_link (n : Option Nat) (b : Bound) (s : State) : (bindName n b s).link = s.link := by
  cases n <;> rfl
@[simp] theorem bindName_deviceStopped (n : Option Nat) (b : Bound) (s : State) : (bindName n b s).deviceStopped = s.deviceStopped := by
  cases n <;> rfl
@[simp] theorem bindName_linkUp (n : Option Nat) (b : Bound) (s : State) : (bindName n b s).linkUp = s.linkUp := by
  cases n <;> rfl
@[simp] theorem bindName_sent (n : Option Nat) (b : Bound) (s : State) : (bindName n b s).sent = s.sent := by
  cases n <;> rfl
@[simp] theorem bindName_trace (n : Option Nat) (b : Bound) (s : State) : (bindName n b s).trace = s.trace := by
  cases n <;> rfl
@[simp] theorem bindName_burst (n : Option Nat) (b : Bound) (s : State) : (bindName n b s).burst = s.burst := by
  cases n <;> rfl
@[simp] theorem bindName_rd (n : Option Nat) (b : Bound) (s : State) : (bindName n b s).rd = s.rd := by
  cases n <;> rfl
@[simp] theorem bindName_script (n : Option Nat) (b : Bound) (s : State) : (bindName n b s).script = s.script := by
  cases n <;> rfl
@[simp] theorem bindName_ret (n : Option Nat) (b : Bound) (s : State) : (bindName n b s).ret = s.ret := by
  cases n <;> rfl
@[simp] theorem bindName_draws (n : Option Nat) (b : Bound) (s : State) : (bindName n b s).draws = s.draws := by
  cases n <;> rfl

@[simp] theorem bindName_none (b : Bound) (s : State) : bindName none b s = s := rfl

@[simp] theorem bindName_some_binds (k : Nat) (b : Bound) (s : State) :
    (bindName (some k) b s).binds = (k, b) :: s.binds := rfl

@[simp] theorem undriven_rs (s : State) : (undriven s).rs = rsOk := rfl
@[simp] theorem undriven_y (s : State) : (undriven s).y = Config.unspec 32 .y s.draws := rfl
@[simp] theorem undriven_fmtOut (s : State) : (undriven s).fmtOut = Config.unspec 1 .fmtOut s.draws := rfl
@[simp] theorem undriven_ampmOut (s : State) : (undriven s).ampmOut = Config.unspec 1 .ampmOut s.draws := rfl
@[simp] theorem undriven_covOut (s : State) : (undriven s).covOut = Config.unspec 1 .covOut s.draws := rfl
@[simp] theorem undriven_validOut (s : State) : (undriven s).validOut = Config.unspec 1 .validOut s.draws := rfl
@[simp] theorem undriven_cal (s : State) : (undriven s).cal = (unspecifiedOutputs s.draws).cal := rfl
@[simp] theorem undriven_raw (s : State) : (undriven s).raw = (unspecifiedOutputs s.draws).raw := rfl
@[simp] theorem undriven_stOut (s : State) : (undriven s).stOut = Config.unspec 8 .stOut s.draws := rfl
@[simp] theorem undriven_stWe (s : State) : (undriven s).stWe = 0 := rfl

end Sys2Proof.Machine
end

