-- ==== Sys2Proof/Laws/Memory.lean ====
section
/-!
SUPPORT. The device register image: read after write, and that a write keeps the canonical form and the named registers.
-/

namespace Sys2Proof.Machine

theorem lookup_write_same (m : Memory) (a : Nat) (v : Byte) : Memory.lookup (Memory.write m a v) a = some v := by
  induction m with
  | nil => simp [Memory.write, Memory.lookup]
  | cons c rest ih =>
    obtain ⟨x, b⟩ := c
    simp only [Memory.write]
    split
    · simp [Memory.lookup]
    · split
      · simp [Memory.lookup]
      · rename_i h1 h2
        have : x ≠ a := fun h => h2 h.symm
        simp [Memory.lookup, this, ih]

theorem lookup_write_other (m : Memory) {a x : Nat} (v : Byte) (h : x ≠ a) :
    Memory.lookup (Memory.write m a v) x = Memory.lookup m x := by
  induction m with
  | nil => simp [Memory.write, Memory.lookup, Ne.symm h]
  | cons c rest ih =>
    obtain ⟨y, b⟩ := c
    simp only [Memory.write]
    split
    · simp [Memory.lookup, Ne.symm h]
    · split
      · rename_i h2
        have hy : y ≠ x := fun e => h (e ▸ h2.symm)
        simp [Memory.lookup, Ne.symm h, hy]
      · simp [Memory.lookup, ih]

/-- A register holds the byte last written to it. -/
theorem read_write_same (m : Memory) (a : Nat) (v : Byte) : Memory.read (Memory.write m a v) a = v := by
  simp [Memory.read, lookup_write_same]

/-- A write leaves every other register alone. -/
theorem read_write_other (m : Memory) {a x : Nat} (v : Byte) (h : x ≠ a) :
    Memory.read (Memory.write m a v) x = Memory.read m x := by
  simp [Memory.read, lookup_write_other m v h]

/-- The canonical form, as a chain of rising addresses. -/
theorem wf_cons {c : Host.Cell} {m : Memory} :
    Memory.wf (c :: m) = true ↔ (∀ d ∈ m.head?, c.1 < d.1) ∧ Memory.wf m = true := by
  cases m <;> simp [Memory.wf]

theorem head_write (m : Memory) (a : Nat) (v : Byte) :
    ∀ d ∈ (Memory.write m a v).head?, d.1 = a ∨ ∃ c ∈ m.head?, d.1 = c.1 := by
  intro d hd
  cases m with
  | nil => simp [Memory.write] at hd; simp [← hd]
  | cons c rest =>
    obtain ⟨x, b⟩ := c
    simp only [Memory.write] at hd
    split at hd
    · simp at hd; simp [← hd]
    · split at hd
      · simp at hd; simp [← hd]
      · simp at hd; right; simp [← hd]

/-- A write keeps the canonical form. -/
theorem wf_write {m : Memory} (h : Memory.wf m = true) (a : Nat) (v : Byte) :
    Memory.wf (Memory.write m a v) = true := by
  induction m with
  | nil => simp [Memory.write, Memory.wf]
  | cons c rest ih =>
    obtain ⟨x, b⟩ := c
    obtain ⟨hlt, hrest⟩ := wf_cons.mp h
    simp only [Memory.write]
    split
    · rename_i hax
      exact wf_cons.mpr ⟨by simpa using hax, h⟩
    · split
      · rename_i hax
        refine wf_cons.mpr ⟨fun d hd => ?_, hrest⟩
        simpa [hax] using hlt d hd
      · rename_i h1 h2
        refine wf_cons.mpr ⟨fun d hd => ?_, ih hrest⟩
        rcases head_write rest a v d hd with e | ⟨c, hc, e⟩
        · simp only [e]; omega
        · simpa [e] using hlt c hc

/-- A write to a named register keeps the list of named registers. -/
theorem onlyNamed_write {m : Memory} (h : onlyNamed m = true) {a : Nat} (ha : namedRegister a = true) (v : Byte) :
    onlyNamed (Memory.write m a v) = true := by
  induction m with
  | nil => simp [Memory.write, onlyNamed, ha]
  | cons c rest ih =>
    obtain ⟨x, b⟩ := c
    simp only [onlyNamed, List.all_cons, Bool.and_eq_true] at h ih ⊢
    simp only [Memory.write]
    split
    · simp [ha, h]
    · split
      · simp [ha, h]
      · simp [h.1, ih h.2]

end Sys2Proof.Machine
end

