-- ==== Sys2Proof/Laws/Result.lean ====
section
/-!
SUPPORT. How results compose: what `andThen` answers, and how a property of every next state is carried through it.
-/

namespace Sys2Proof.Machine

@[simp] theorem andThen_next (s : State) (f : State → Result) : andThen (.next s) f = f s := rfl

@[simp] theorem andThen_fault (e : Fault) (f : State → Result) : andThen (.fault e) f = .fault e := rfl

@[simp] theorem andThen_refused (e : Refusal) (f : State → Result) : andThen (.refused e) f = .refused e := rfl

/-- A composed operation answers a next state exactly when both parts do. -/
theorem andThen_eq_next {r : Result} {f : State → Result} {t : State} :
    andThen r f = .next t ↔ ∃ u, r = .next u ∧ f u = .next t := by
  cases r <;> simp

/-- Every next state of the result has the property. -/
def Yields (P : State → Prop) (r : Result) : Prop := ∀ t, r = .next t → P t

theorem yields_next {P : State → Prop} {s : State} : Yields P (.next s) ↔ P s := by
  constructor
  · intro h; exact h s rfl
  · intro h t ht; cases ht; exact h

theorem yields_fault {P : State → Prop} {e : Fault} : Yields P (.fault e) := by
  intro t h; cases h

theorem yields_refused {P : State → Prop} {e : Refusal} : Yields P (.refused e) := by
  intro t h; cases h

/-- A property carried by the first part and kept by the second is carried by the whole. -/
theorem yields_andThen {P Q : State → Prop} {r : Result} {f : State → Result}
    (hr : Yields P r) (hf : ∀ u, P u → Yields Q (f u)) : Yields Q (andThen r f) := by
  intro t ht
  obtain ⟨u, hu, hfu⟩ := andThen_eq_next.mp ht
  exact hf u (hr u hu) t hfu

end Sys2Proof.Machine
end

