-- ==== Sys2Proof/Laws/Exchange.lean ====
section
/-!
SUPPORT. What a device burst does, said once: the state after a read and after a write, that each completes when the
transport is up, and that it answers nothing else (48_host_interface.md R282-R287).
-/

namespace Sys2Proof.Machine

/-- The bytes a device returns in `n` exchanges from register `p` on, the first at draw number `d`. -/
def returnedBytes (stopped : Bool) (m : Memory) : Nat → RegAddr → Nat → List Byte
  | 0, _, _ => []
  | n + 1, p, d =>
    (if stopped then Memory.read m p.toNat else Config.deviceByte d) :: returnedBytes stopped m n (p + 1) (d + 1)

/-- The image after the bytes are stored from register `p` on. -/
def storedBytes : Memory → RegAddr → List Byte → Memory
  | m, _, [] => m
  | m, p, v :: rest => storedBytes (Memory.write m p.toNat v) (p + 1) rest

theorem returnedBytes_length (st : Bool) (m : Memory) (n : Nat) (p : RegAddr) (d : Nat) :
    (returnedBytes st m n p d).length = n := by
  induction n generalizing p d with
  | zero => rfl
  | succ n ih => simp [returnedBytes, ih]

/-- The data bytes of a read: fill bytes out, register bytes in. -/
theorem exchangeAll_reading (s : State) (n : Nat) (f : Byte) (hup : s.linkUp = true) (hl : s.link = .reading) :
    exchangeAll (List.replicate n f) s = .next { s with
      sent := s.sent ++ List.replicate n f
      rd := s.rd ++ returnedBytes s.deviceStopped s.mem n s.ptr s.draws
      ptr := s.ptr + BitVec.ofNat 7 n
      draws := s.draws + n } := by
  induction n generalizing s with
  | zero => simp [exchangeAll, returnedBytes]
  | succ n ih =>
    simp only [List.replicate_succ, exchangeAll, exchangeByte, hup, hl, if_true, andThen_next]
    rw [ih _ rfl rfl]
    have hp : s.ptr + 1#7 + BitVec.ofNat 7 n = s.ptr + BitVec.ofNat 7 (n + 1) := by
      rw [BitVec.add_assoc, BitVec.ofNat_add, BitVec.add_comm (BitVec.ofNat 7 n)]
    simp only [returnedBytes, deviceReturns, List.append_assoc, List.singleton_append]
    simp [hp, Nat.add_assoc, Nat.add_comm 1 n]

/-- The data bytes of a write: each is stored in the next register. -/
theorem exchangeAll_writing (s : State) (v : List Byte) (hup : s.linkUp = true) (hl : s.link = .writing) :
    exchangeAll v s = .next { s with
      sent := s.sent ++ v
      mem := storedBytes s.mem s.ptr v
      ptr := s.ptr + BitVec.ofNat 7 v.length } := by
  induction v generalizing s with
  | nil => simp [exchangeAll, storedBytes]
  | cons b rest ih =>
    simp only [exchangeAll, exchangeByte, hup, hl, if_true, andThen_next]
    rw [ih _ rfl rfl]
    have hp : s.ptr + 1#7 + BitVec.ofNat 7 rest.length = s.ptr + BitVec.ofNat 7 (rest.length + 1) := by
      rw [BitVec.add_assoc, BitVec.ofNat_add, BitVec.add_comm (BitVec.ofNat 7 rest.length)]
    simp only [storedBytes, List.append_assoc, List.singleton_append, List.length_cons]
    simp [hp]

theorem addrByte_read (a : RegAddr) : isWriteAddr (addrByte false a) = false ∧ addrField (addrByte false a) = a := by
  revert a; decide

theorem addrByte_write (a : RegAddr) : isWriteAddr (addrByte true a) = true ∧ addrField (addrByte true a) = a := by
  revert a; decide

/-- The state after an admitted `MemRead(addr, n)`. -/
def afterRead (addr : RegAddr) (n : Nat) (s : State) : State :=
  { s with
    link := .deselected
    sent := []
    trace := (addrByte false addr :: List.replicate n s.params.readFill) :: s.trace
    rd := returnedBytes s.deviceStopped s.mem n addr s.draws
    ptr := addr + BitVec.ofNat 7 n
    draws := s.draws + n }

/-- The state after an admitted `MemWrite(addr, v)`. -/
def afterWrite (addr : RegAddr) (v : List Byte) (s : State) : State :=
  { s with
    link := .deselected
    sent := []
    trace := (addrByte true addr :: v) :: s.trace
    mem := storedBytes s.mem addr v
    ptr := addr + BitVec.ofNat 7 v.length }

/-- A burst read on a working transport answers exactly this. -/
theorem memRead_eq {addr : RegAddr} {n : Nat} {s : State} (hup : s.linkUp = true)
    (ha : admitted addr.toNat n = true) : memRead addr n s = .next (afterRead addr n s) := by
  obtain ⟨h1, h2⟩ := addrByte_read addr
  simp only [memRead, ha, if_true, exchange, exchangeAll, exchangeByte, select, hup, andThen_next, h1, h2,
    Bool.false_eq_true, if_false]
  rw [exchangeAll_reading _ _ _ rfl rfl]
  simp [deselect, afterRead, hup]

/-- A burst write on a working transport answers exactly this. -/
theorem memWrite_eq {addr : RegAddr} {v : List Byte} {s : State} (hup : s.linkUp = true)
    (ha : admitted addr.toNat v.length = true) : memWrite addr v s = .next (afterWrite addr v s) := by
  obtain ⟨h1, h2⟩ := addrByte_write addr
  simp only [memWrite, ha, if_true, exchange, exchangeAll, exchangeByte, select, hup, andThen_next, h1, h2]
  rw [exchangeAll_writing _ _ rfl rfl]
  simp [deselect, afterWrite, hup]

/-- With the transport down every exchange is stuck. -/
theorem exchange_down {address : Byte} {data : List Byte} {s : State} (h : s.linkUp = false) :
    exchange address data s = .fault .exchangeIncomplete := by
  simp [exchange, exchangeAll, exchangeByte, select, h]

/-- Everything a burst read can answer. -/
theorem memRead_cases {addr : RegAddr} {n : Nat} {s t : State} (h : memRead addr n s = .next t) :
    s.linkUp = true ∧ admitted addr.toNat n = true ∧ t = afterRead addr n s := by
  by_cases ha : admitted addr.toNat n = true
  · cases hup : s.linkUp with
    | true => rw [memRead_eq hup ha] at h; cases h; exact ⟨rfl, ha, rfl⟩
    | false => simp [memRead, ha, exchange_down (s := { s with rd := [] }) hup] at h
  · simp [memRead, ha] at h

/-- Everything a burst write can answer. -/
theorem memWrite_cases {addr : RegAddr} {v : List Byte} {s t : State} (h : memWrite addr v s = .next t) :
    s.linkUp = true ∧ admitted addr.toNat v.length = true ∧ t = afterWrite addr v s := by
  by_cases ha : admitted addr.toNat v.length = true
  · cases hup : s.linkUp with
    | true => rw [memWrite_eq hup ha] at h; cases h; exact ⟨rfl, ha, rfl⟩
    | false => simp [memWrite, ha, exchange_down hup] at h
  · simp [memWrite, ha] at h

end Sys2Proof.Machine
end

