-- ==== Sys2Proof/Laws/Transaction.lean ====
section
/-!
SUPPORT. What an instruction can do, said once: a CORE command changes the output ports and the draw counter only; a
device row is a MemRead or a MemWrite at the register its byte names.
-/

namespace Sys2Proof.Machine

/-- Every CORE command answers, and changes the outputs and the draw counter only. -/
theorem exec_core (i : Instr) (h : i.channel = .cmd) (s : State) : ∃ o, exec i s = .next (respond s o) := by
  cases i <;> simp only [Instr.channel, reduceCtorEq] at h <;> simp only [exec]
  case fencStatus => cases hp : s.params.validityLoc <;> simp only [execFencStatus, hp] <;> exact ⟨_, rfl⟩
  case fdecMonth => cases hp : s.params.validityLoc <;> simp only [execFdecMonth, hp] <;> exact ⟨_, rfl⟩
  case fdecStatus => cases hp : s.params.validityLoc <;> simp only [execFdecStatus, hp] <;> exact ⟨_, rfl⟩
  case frmenc => cases hp : s.params.validityLoc <;> simp only [execFrmenc, hp] <;> exact ⟨_, rfl⟩
  case mdays => simp only [execMdays]; split <;> exact ⟨_, rfl⟩
  case h24to12 => simp only [execH24to12]; split <;> exact ⟨_, rfl⟩
  case toepoch => simp only [execToepoch]; split <;> exact ⟨_, rfl⟩
  case fromepoch => simp only [execFromepoch]; split <;> exact ⟨_, rfl⟩
  all_goals exact ⟨_, rfl⟩

/-- A decoded command word is a CORE command. -/
theorem decodeCmd_channel (c : Byte) (i : Instr) (h : decodeCmd c = .ok i) : i.channel = .cmd := by
  have key : ∀ c : Byte, (match decodeCmd c with | .ok i => i.channel == .cmd | .error _ => true) = true := by
    decide
  have := key c
  rw [h] at this
  simpa using this

/-- Every CORE transaction answers, and changes the outputs and the draw counter only. -/
theorem coreTransaction_respond (s : State) : ∃ o, coreTransaction s = .next (respond s o) := by
  unfold coreTransaction
  split
  · rename_i i h
    exact exec_core i (decodeCmd_channel _ i h) s
  · exact ⟨_, rfl⟩

/-- A CORE transaction the host issues answers with the ports the host presented. -/
theorem issue_respond (c : Byte) (inp : Inputs) (s : State) :
    ∃ o, issue c inp s = .next (respond { s with inp := { inp with cmd := c } } o) :=
  coreTransaction_respond _

/-- A device row is the burst its byte names. -/
theorem exec_device (i : Instr) (h : i.channel = .addr) (s : State) :
    exec i s = if isWriteAddr (encode i) then memWrite (addrField (encode i)) s.burst.data s
      else memRead (addrField (encode i)) s.burst.count s := by
  cases i <;> simp only [Instr.channel, reduceCtorEq] at h <;> rfl

end Sys2Proof.Machine
end

