-- ==== Sys2Proof/Laws/Script.lean ====
section
/-!
SUPPORT. What a script line's operands and port settings are worth, one case each, and the signal of a host operation.
-/

namespace Sys2Proof.Machine

@[simp] theorem operandValue_lit (binds : List (Nat × Bound)) (v : Nat) : operandValue binds (.lit v) = some v := rfl

@[simp] theorem operandValue_offset (binds : List (Nat × Bound)) (k : Nat) (v : Operand) :
    operandValue binds (.offset k v) = (operandValue binds v).map (k + ·) := rfl

@[simp] theorem applyPorts_nil (binds : List (Nat × Bound)) (inp : Inputs) : applyPorts binds [] inp = some inp := rfl

/-- A setting with a value is made, and the rest of the line's settings after it. -/
theorem applyPorts_cons {binds : List (Nat × Bound)} {p : InPort} {v : Operand} {rest : List (InPort × Operand)}
    {inp : Inputs} {x : Nat} (h : operandValue binds v = some x) :
    applyPorts binds ((p, v) :: rest) inp = applyPorts binds rest (setPort inp p x) := by
  simp only [applyPorts, h]

@[simp] theorem returnSignal_changed : returnSignal .changed = 1 := rfl

@[simp] theorem returnSignal_unchanged : returnSignal .unchanged = 0 := rfl

@[simp] theorem returnSignal_value (v : Scalar) : returnSignal (.value v) = v.toNat := rfl

end Sys2Proof.Machine
end

