-- ==== Sys2Proof/Laws/PerInstr.lean ====
section
/-!
SUPPORT. Statements about every instruction as syntax, one lemma per constructor. The family Legality: the parameters
make exactly FENC.STATUS and FDEC.STATUS illegal, under MONTH (30_encoding.md R107).
-/

namespace Sys2Proof.Laws.Legality

/-- The instruction is ill-formed exactly when it is one of the two status-byte commands and the flag lives in the
month byte. -/
def Statement (i : Instr) : Prop :=
  ∀ p : Params, i.wf p = false ↔ p.validityLoc = .month ∧ (i = .fencStatus ∨ i = .fdecStatus)

/-- The proof of an instruction that is legal under every parameter. -/
theorem always {i : Instr} (hw : ∀ p, i.wf p = true) (h1 : i ≠ .fencStatus) (h2 : i ≠ .fdecStatus) : Statement i := by
  intro p
  simp [hw, h1, h2]

theorem bcdenc : Statement .bcdenc := always (fun _ => rfl) nofun nofun
theorem bcddec : Statement .bcddec := always (fun _ => rfl) nofun nofun
theorem fencHs : Statement .fencHs := always (fun _ => rfl) nofun nofun
theorem fencSec : Statement .fencSec := always (fun _ => rfl) nofun nofun
theorem fencMin : Statement .fencMin := always (fun _ => rfl) nofun nofun
theorem fencHour : Statement .fencHour := always (fun _ => rfl) nofun nofun
theorem fencWday : Statement .fencWday := always (fun _ => rfl) nofun nofun
theorem fencDay : Statement .fencDay := always (fun _ => rfl) nofun nofun
theorem fencMonth : Statement .fencMonth := always (fun _ => rfl) nofun nofun
theorem fencYear : Statement .fencYear := always (fun _ => rfl) nofun nofun
theorem fencStatus : Statement .fencStatus := by
  intro p
  cases h : p.validityLoc <;> simp [Instr.wf, h]
theorem fdecHs : Statement .fdecHs := always (fun _ => rfl) nofun nofun
theorem fdecSec : Statement .fdecSec := always (fun _ => rfl) nofun nofun
theorem fdecMin : Statement .fdecMin := always (fun _ => rfl) nofun nofun
theorem fdecHour : Statement .fdecHour := always (fun _ => rfl) nofun nofun
theorem fdecWday : Statement .fdecWday := always (fun _ => rfl) nofun nofun
theorem fdecDay : Statement .fdecDay := always (fun _ => rfl) nofun nofun
theorem fdecMonth : Statement .fdecMonth := always (fun _ => rfl) nofun nofun
theorem fdecYear : Statement .fdecYear := always (fun _ => rfl) nofun nofun
theorem fdecStatus : Statement .fdecStatus := by
  intro p
  cases h : p.validityLoc <;> simp [Instr.wf, h]
theorem frmenc : Statement .frmenc := always (fun _ => rfl) nofun nofun
theorem frmdec : Statement .frmdec := always (fun _ => rfl) nofun nofun
theorem leap : Statement .leap := always (fun _ => rfl) nofun nofun
theorem mdays : Statement .mdays := always (fun _ => rfl) nofun nofun
theorem wday : Statement .wday := always (fun _ => rfl) nofun nofun
theorem h12to24 : Statement .h12to24 := always (fun _ => rfl) nofun nofun
theorem h24to12 : Statement .h24to12 := always (fun _ => rfl) nofun nofun
theorem toepoch : Statement .toepoch := always (fun _ => rfl) nofun nofun
theorem fromepoch : Statement .fromepoch := always (fun _ => rfl) nofun nofun
theorem devrdHundredths : Statement .devrdHundredths := always (fun _ => rfl) nofun nofun
theorem devrdSecond : Statement .devrdSecond := always (fun _ => rfl) nofun nofun
theorem devrdMinute : Statement .devrdMinute := always (fun _ => rfl) nofun nofun
theorem devrdHour : Statement .devrdHour := always (fun _ => rfl) nofun nofun
theorem devrdWeekday : Statement .devrdWeekday := always (fun _ => rfl) nofun nofun
theorem devrdDay : Statement .devrdDay := always (fun _ => rfl) nofun nofun
theorem devrdMonth : Statement .devrdMonth := always (fun _ => rfl) nofun nofun
theorem devrdYear : Statement .devrdYear := always (fun _ => rfl) nofun nofun
theorem devrdStatus : Statement .devrdStatus := always (fun _ => rfl) nofun nofun
theorem devrdTrickle : Statement .devrdTrickle := always (fun _ => rfl) nofun nofun
theorem devwrHundredths : Statement .devwrHundredths := always (fun _ => rfl) nofun nofun
theorem devwrSecond : Statement .devwrSecond := always (fun _ => rfl) nofun nofun
theorem devwrMinute : Statement .devwrMinute := always (fun _ => rfl) nofun nofun
theorem devwrHour : Statement .devwrHour := always (fun _ => rfl) nofun nofun
theorem devwrWeekday : Statement .devwrWeekday := always (fun _ => rfl) nofun nofun
theorem devwrDay : Statement .devwrDay := always (fun _ => rfl) nofun nofun
theorem devwrMonth : Statement .devwrMonth := always (fun _ => rfl) nofun nofun
theorem devwrYear : Statement .devwrYear := always (fun _ => rfl) nofun nofun
theorem devwrStatus : Statement .devwrStatus := always (fun _ => rfl) nofun nofun
theorem devwrTrickle : Statement .devwrTrickle := always (fun _ => rfl) nofun nofun

end Sys2Proof.Laws.Legality
end

