-- ==== Sys2Proof/Certificates/Slice0/Obligations.lean ====
section
/-!
DEFINITION. The statements about the model, each formalising rules of spec/. The terms they use are written again here
from the rules, in plain arithmetic on numbers, so that a statement does not repeat the model's own definitions.
-/

open Sys2Proof Sys2Proof.Machine

namespace Sys2Proof.Claims

/-! ## Terms -/

/-- The number in `A[7:0]` (30_encoding.md R103). -/
def lowByte (s : State) : Nat := s.inp.a.toNat % 256

/-- The number in `A[15:0]` (30_encoding.md R103). -/
def lowHalf (s : State) : Nat := s.inp.a.toNat % 65536

/-- `s8(in.TZ)` (00_scope.md R11). -/
def hours (tz : Byte) : Int := if tz.toNat < 128 then tz.toNat else (tz.toNat : Int) - 256

/-- A number of at most two decimal digits as a BCD byte: tens in the high nibble (20_memory.md R76). -/
def packed (n : Nat) : Nat := n / 10 * 16 + n % 10

/-- The number two nibbles weigh (40_bcd_codec.md R141). -/
def weighed (b : Nat) : Nat := 10 * (b / 16) + b % 16

/-- A value clamped to a range (41_frame_codec.md R160). -/
def clamped (v lo hi : Nat) : Nat := min (max v lo) hi

/-- The hour byte of 41_frame_codec.md R162. -/
def hourByte (fmt hr ampm : Nat) : Nat :=
  if fmt = 0 then packed (clamped hr 0 23) else packed (clamped hr 1 12) + 32 * ampm + 64

/-- The month byte of 41_frame_codec.md R164. -/
def monthByte (mon cov : Nat) : Nat := packed (clamped mon 1 12) + 128 * cov

/-- The status byte of 41_frame_codec.md R164: bit 7 is the inverted validity, bits 6:0 pass through. -/
def statusByte (valid st : Nat) : Nat := st % 128 + 128 * (1 - valid)

/-- A Gregorian leap year (42_epoch_converter.md R221). -/
def leapYear (y : Nat) : Bool := decide (y % 4 = 0 ∧ (y % 100 ≠ 0 ∨ y % 400 = 0))

/-- Days in a year (42_epoch_converter.md R221). -/
def daysInYear (y : Nat) : Nat := if leapYear y then 366 else 365

/-- Days in a month of [1,12] (42_epoch_converter.md R220, R222). -/
def daysInMonth (y m : Nat) : Nat :=
  if m = 2 then (if leapYear y then 29 else 28)
  else if m = 4 ∨ m = 6 ∨ m = 9 ∨ m = 11 then 30 else 31

/-- Days from 1970-01-01 to the first day of year `y`. -/
def daysBeforeYear (y : Nat) : Nat := ((List.range' 1970 (y - 1970)).map daysInYear).sum

/-- Days from the first day of year `y` to the first day of its month `m`. -/
def daysBeforeMonth (y m : Nat) : Nat := ((List.range' 1 (m - 1)).map (daysInMonth y)).sum

/-- The weekday of a day number, 1 = Sunday (42_epoch_converter.md R223). -/
def weekdayOf (days : Nat) : Nat := (days + 4) % 7 + 1

/-- 12h to 24h under either rule (42_epoch_converter.md R224). -/
def hour24 (rule : Hour12Rule) (h pm : Nat) : Nat :=
  match rule with
  | .contract => h % 12 + 12 * pm
  | .literal => h + 12 * pm

/-- 24h to 12h for an hour of [0,23]: the hour and the PM bit (42_epoch_converter.md R225). -/
def hour12 (h : Nat) : Nat := if h % 12 = 0 then 12 else h % 12

/-- The day number of `CAL_IN`'s date, before the first of January 1970 when negative (42_epoch_converter.md R226). -/
def dayNumber (c : CalendarValue) : Int :=
  (daysBeforeYear (2000 + c.yr.toNat) : Int) + daysBeforeMonth (2000 + c.yr.toNat) c.mon.toNat + (c.day.toNat - 1)

/-- The unwrapped sum of toEpoch (42_epoch_converter.md R226). -/
def epochSum (rule : Hour12Rule) (c : CalendarValue) (fmt : Bit) (tz : Int) : Int :=
  86400 * dayNumber c
    + (3600 * (if fmt = 1 then hour24 rule c.hr.toNat c.ampm.toNat else c.hr.toNat) + 60 * c.min.toNat + c.sec.toNat : Nat)
    - 3600 * tz

/-- A CalendarValue in the domains of 10_state.md R36 for the format, with AMPM = 0 in H24. -/
def inDomain (c : CalendarValue) (fmt : Bit) : Prop :=
  c.hs.toNat ≤ 99 ∧ c.sec.toNat ≤ 59 ∧ c.min.toNat ≤ 59 ∧
  (if fmt = 0 then c.hr.toNat ≤ 23 ∧ c.ampm = 0 else 1 ≤ c.hr.toNat ∧ c.hr.toNat ≤ 12) ∧
  1 ≤ c.wd.toNat ∧ c.wd.toNat ≤ 7 ∧ 1 ≤ c.day.toNat ∧ c.day.toNat ≤ 31 ∧
  1 ≤ c.mon.toNat ∧ c.mon.toNat ≤ 12 ∧ c.yr.toNat ≤ 99

/-- The calendar values of the round-trip contract: the time and the hour in domain for the format, a day that exists in
its month, the date's weekday; the hundredths and cov are any (42_epoch_converter.md R237, R227). -/
def contractValue (c : CalendarValue) (fmt : Bit) : Prop :=
  c.yr.toNat ≤ 99 ∧ 1 ≤ c.mon.toNat ∧ c.mon.toNat ≤ 12 ∧
  1 ≤ c.day.toNat ∧ c.day.toNat ≤ daysInMonth (2000 + c.yr.toNat) c.mon.toNat ∧
  c.sec.toNat ≤ 59 ∧ c.min.toNat ≤ 59 ∧
  (if fmt = 0 then c.hr.toNat ≤ 23 ∧ c.ampm = 0 else 1 ≤ c.hr.toNat ∧ c.hr.toNat ≤ 12) ∧
  (c.wd.toNat : Int) = (dayNumber c + 4) % 7 + 1

/-- The instruction is decoded from this command word and from no other. -/
def EncodedAs (i : Instr) (c : Byte) : Prop := ∀ b : Byte, decodeCmd b = .ok i ↔ b = c

/-- The Illegal response (60_exceptions.md R341): `RS` = 0b01, `ST_WE` = 0, every other port at a draw, nothing else
changed. -/
def IllegalAnswer (s t : State) : Prop :=
  CoreFrame s t ∧ t.out.rs = 0b01 ∧ t.out.stWe = 0 ∧
  ∀ p : OutPort, p ≠ .rs → p ≠ .stWe → outPort t.out p = outPort (unspecifiedOutputs s.draws) p

/-- A word of an operation without a field is illegal for every `SEL` but 0 (30_encoding.md R107 clause 2). -/
def OnlySelZero (op : Nat) : Prop :=
  ∀ s : State, s.inp.cmd.toNat / 16 = op → s.inp.cmd.toNat % 16 ≠ 0 →
    ∃ t, coreTransaction s = .next t ∧ IllegalAnswer s t

/-- The instruction completes with its own effect: it answers a next state with `RS` = OK whose outputs meet `P`; every
port but those listed, `RS` and `ST_WE` is at a draw (00_scope.md R16); nothing but the outputs and the draw counter
changes. -/
def Answers (i : Instr) (s : State) (driven : List OutPort) (P : Outputs → Prop) : Prop :=
  ∃ t, exec i s = .next t ∧ CoreFrame s t ∧ t.out.rs = 0b00 ∧
    (∀ p : OutPort, p ∉ driven → p ≠ .rs → p ≠ .stWe → outPort t.out p = outPort (unspecifiedOutputs s.draws) p) ∧
    P t.out

/-- Drives `Y` with a number and asks for no status write. -/
def yIs (n : Nat) (o : Outputs) : Prop := o.stWe = 0 ∧ o.y.toNat = n

/-- What the register holds in the image. -/
def stored (s : State) (a : Nat) : Nat := (Memory.read s.mem a).toNat

/-- The validity flag reads true (10_state.md R46, R48). -/
def flagValid (s : State) : Prop :=
  match s.params.validityLoc with
  | .month => stored s 0x06 / 128 = 1
  | .status => stored s 0x0E / 128 = 0

/-- What register `x` holds after a field write of `v` to register `a` and the validity re-assertion that follows
(48_host_interface.md R296): under `MONTH` register 0x06 gets bit 7 set, under `STATUS` register 0x0E bit 7 cleared. -/
def afterField (s : State) (a v x : Nat) : Nat :=
  let w := if x = a then v else stored s x
  match s.params.validityLoc with
  | .month => if x = 0x06 then w % 128 + 128 else w
  | .status => if x = 0x0E then w % 128 else w

/-- The host call ends `Unchanged` and no register changed and nothing was written. -/
def EndsUnchanged (c : HostCall) (s : State) : Prop :=
  ∃ t, runCall c s = .next t ∧ t.ret = some .unchanged ∧ t.mem = s.mem ∧ writeCount t.trace = writeCount s.trace

/-- The host call ends `Changed` by a field write of `v` to `a`, re-asserted: two writes, every register as
`afterField` says. -/
def EndsWritten (c : HostCall) (s : State) (a v : Nat) : Prop :=
  ∃ t, runCall c s = .next t ∧ t.ret = some .changed ∧ (∀ x, stored t x = afterField s a v x) ∧
    writeCount t.trace = writeCount s.trace + 2

/-- The register of each read row of the table (20_memory.md R72). -/
def readRows : List (Instr × Nat) :=
  [(.devrdHundredths, 0x00), (.devrdSecond, 0x01), (.devrdMinute, 0x02), (.devrdHour, 0x03), (.devrdWeekday, 0x04),
   (.devrdDay, 0x05), (.devrdMonth, 0x06), (.devrdYear, 0x07), (.devrdStatus, 0x0E), (.devrdTrickle, 0x0F)]

/-- The register of each write row of the table (20_memory.md R72). -/
def writeRows : List (Instr × Nat) :=
  [(.devwrHundredths, 0x00), (.devwrSecond, 0x01), (.devwrMinute, 0x02), (.devwrHour, 0x03), (.devwrWeekday, 0x04),
   (.devwrDay, 0x05), (.devwrMonth, 0x06), (.devwrYear, 0x07), (.devwrStatus, 0x0E), (.devwrTrickle, 0x0F)]

/-- Every register of a burst is one of those named: 0x00-0x07, 0x0E, 0x0F (48_host_interface.md R284). -/
def touchesOnlyNamed (a n : Nat) : Prop := ∀ k, k < n → a + k ≤ 0x07 ∨ a + k = 0x0E ∨ a + k = 0x0F

/-- The FENC instruction of frame lane `k` (30_encoding.md R102). -/
def fencLane (k : Fin 8) : Instr :=
  match k with
  | 0 => .fencHs | 1 => .fencSec | 2 => .fencMin | 3 => .fencHour
  | 4 => .fencWday | 5 => .fencDay | 6 => .fencMonth | 7 => .fencYear

/-- The FDEC instruction of frame lane `k` (30_encoding.md R102). -/
def fdecLane (k : Fin 8) : Instr :=
  match k with
  | 0 => .fdecHs | 1 => .fdecSec | 2 => .fdecMin | 3 => .fdecHour
  | 4 => .fdecWday | 5 => .fdecDay | 6 => .fdecMonth | 7 => .fdecYear

/-- The `CAL_OUT` port of frame lane `k` (10_state.md R34, R38). -/
def calLane (k : Fin 8) : OutPort :=
  match k with
  | 0 => .calHs | 1 => .calSec | 2 => .calMin | 3 => .calHr
  | 4 => .calWd | 5 => .calDay | 6 => .calMon | 7 => .calYr

/-- The `CAL_IN` ports frame lane `k` reads beside `FMT` (41_frame_codec.md R188). -/
def lanePorts (k : Fin 8) : List InPort :=
  match k with
  | 0 => [.calHs] | 1 => [.calSec] | 2 => [.calMin] | 3 => [.calHr, .calAmpm, .fmt]
  | 4 => [.calWd] | 5 => [.calDay] | 6 => [.calMon, .calCov] | 7 => [.calYr]

/-- What register `x` holds after setEpoch has written local time `loc`, on the `d`th of month `m` of year `y`: the frame
in the stored format, valid by the parameter, the other registers as before (48_host_interface.md R296, R297). -/
def frameRegister (s : State) (loc y m d x : Nat) : Nat :=
  let h := loc / 3600 % 24
  match x with
  | 0x00 => 0
  | 0x01 => packed (loc % 60)
  | 0x02 => packed (loc / 60 % 60)
  | 0x03 => if stored s 0x03 / 64 % 2 = 0 then packed h else packed (hour12 h) + 32 * (h / 12) + 64
  | 0x04 => packed (weekdayOf (loc / 86400))
  | 0x05 => packed d
  | 0x06 =>
    packed m + 128 *
      match s.params.validityLoc with
      | .month => 1
      | .status => stored s 0x06 / 128
  | 0x07 => packed (y - 2000)
  | 0x0E =>
    match s.params.validityLoc with
    | .month => stored s 0x0E
    | .status => stored s 0x0E % 128
  | _ => stored s x

/-- The setters and the two mode setters: the calls that return an outcome signal (48_host_interface.md R290). -/
def isSetter : HostCall → Bool
  | .setFormat _ | .setHundredths _ | .setSecond _ | .setMinute _ | .setWeekday _ | .setDay _ | .setYear _
  | .setHour _ | .setAmPm _ | .setMonth _ | .setCentury _ | .setEpoch _ _ | .setTrickleChargerMode _ => true
  | .getFormat | .getHundredths | .getSecond | .getMinute | .getHour | .getAmPm | .getWeekday
  | .getDay | .getMonth | .getCentury | .getValidity | .getYear | .getEpoch _ => false

/-- The plain setters of 48_host_interface.md R292: the call, its register, and the range it clamps to. -/
def plainSetters : List ((Byte → HostCall) × Nat × Nat × Nat) :=
  [(.setHundredths, 0x00, 0, 99), (.setSecond, 0x01, 0, 59), (.setMinute, 0x02, 0, 59), (.setWeekday, 0x04, 1, 7),
   (.setDay, 0x05, 1, 31), (.setYear, 0x07, 0, 99)]

end Sys2Proof.Claims

open Sys2Proof.Claims

/-! ## Encoding -/

/-- 30_encoding.md R100-R102, R111; 20_memory.md R71: a byte decodes to an instruction on a receiver exactly when it is
that instruction's byte and the receiver is its own, and the rest of the bytes is left. -/
def Obligations.DecodeIsExactlyEncode : Prop :=
  ∀ (ch : Channel) (b : Byte) (rest : List Byte) (i : Instr),
    decode ch (b :: rest) = .ok (i, rest) ↔ ch = i.channel ∧ b = encode i

/-- Words written out from the tables of 30_encoding.md R101, R102 and 20_memory.md R72. -/
def Obligations.TableWordsDecode : Prop :=
  decodeCmd 0b00010000 = .ok .bcdenc ∧ decodeCmd 0b00110011 = .ok .fencHour ∧ decodeCmd 0b01001110 = .ok .fdecStatus ∧
  decodeCmd 0b01010000 = .ok .frmenc ∧ decodeCmd 0b11010000 = .ok .fromepoch ∧
  decodeAddr 0b00001110 = .ok .devrdStatus ∧ decodeAddr 0b10000000 = .ok .devwrHundredths

/-- 30_encoding.md R107: the four clauses are exactly the words answered ILLEGAL, whatever the operands; every other
word is answered OK; 27 words are legal under MONTH and 29 under STATUS. -/
def Obligations.IllegalWordsAreExactlyTheFourClauses : Prop :=
  (∀ s : State,
    ∃ t, coreTransaction s = .next t ∧
      let op := s.inp.cmd.toNat / 16
      let sel := s.inp.cmd.toNat % 16
      if op = 0x0 ∨ op = 0xE ∨ op = 0xF ∨
          (op ≠ 0x3 ∧ op ≠ 0x4 ∧ sel ≠ 0) ∨
          ((op = 0x3 ∨ op = 0x4) ∧ ((0x8 ≤ sel ∧ sel ≤ 0xD) ∨ sel = 0xF)) ∨
          ((op = 0x3 ∨ op = 0x4) ∧ sel = 0xE ∧ s.params.validityLoc = .month)
      then IllegalAnswer s t
      else t.out.rs = 0b00 ∧ ∃ i, decodeCmd s.inp.cmd = .ok i ∧ i.wf s.params = true ∧ exec i s = .next t) ∧
  (∀ p : Params, (List.range 256).countP (fun n => legalWord p (BitVec.ofNat 8 n)) =
    match p.validityLoc with
    | .month => 27
    | .status => 29)

/-! ## The machine's step -/

/-- From 10_state.md R32, 30_encoding.md R109, 60_exceptions.md R341, 48_host_interface.md R280, R284: what a step does on
every kind of next line. A core line with a word that decodes to `i` runs `i` on the ports the line sets and binds the
outputs to the line's name; with any other word it gets the Illegal response; a device line runs the row its address
byte names on the line's count or bytes, a read binds the bytes, and a byte that names no row is refused; a host call is
run to its end; a line with an unbound name faults; with no line left nothing changes. The model's choices, not the
spec's: that one line is one step, that a port the line leaves unwritten keeps its standing value, the
fault for an unbound name (log 9), the later of two settings of one port (log 19), that a value too wide for its port or
data byte is cut to its low bits (log 20), and the idle step of an empty script (log 4). -/
def Obligations.StepRunsTheDecodedInstruction : Prop :=
  (∀ (s : State) (name : Option Nat) (c : Byte) (ports : List (InPort × Operand)) (rest : List Line) (inp : Inputs) (i : Instr),
    s.script = .core name c ports :: rest → applyPorts s.binds ports s.inp = some inp → decodeByte .cmd c = .ok i →
      step s = andThen (exec i { s with script := rest, inp := { inp with cmd := c } })
        fun t => .next (bindName name (.outputs t.out) t)) ∧
  (∀ (s : State) (name : Option Nat) (c : Byte) (ports : List (InPort × Operand)) (rest : List Line) (inp : Inputs),
    s.script = .core name c ports :: rest → applyPorts s.binds ports s.inp = some inp →
      (∀ i, decodeByte .cmd c ≠ .ok i) →
      ∃ t, IllegalAnswer { s with script := rest, inp := { inp with cmd := c } } t ∧
        step s = .next (bindName name (.outputs t.out) t)) ∧
  (∀ (s : State) (name : Option Nat) (c : Byte) (ports : List (InPort × Operand)) (rest : List Line),
    s.script = .core name c ports :: rest → applyPorts s.binds ports s.inp = none → step s = .fault .unboundName) ∧
  (∀ (s : State) (name : Option Nat) (a : RegAddr) (n : Nat) (rest : List Line) (i : Instr),
    s.script = .rd name a n :: rest → decodeByte .addr (addrByte false a) = .ok i →
      step s = andThen (exec i { s with script := rest, burst := { count := n, data := [] } })
        fun t => .next (bindName name (.bytes t.rd) t)) ∧
  (∀ (s : State) (a : RegAddr) (data : List Operand) (bs : List Byte) (rest : List Line) (i : Instr),
    s.script = .wr a data :: rest → dataBytes s.binds data = some bs → decodeByte .addr (addrByte true a) = .ok i →
      step s = exec i { s with script := rest, burst := { count := bs.length, data := bs } }) ∧
  (∀ (s : State) (name : Option Nat) (a : RegAddr) (n : Nat) (rest : List Line), s.script = .rd name a n :: rest →
    (∀ i, decodeByte .addr (addrByte false a) ≠ .ok i) → step s = .refused (.burstNotAdmitted a.toNat n)) ∧
  (∀ (s : State) (a : RegAddr) (data : List Operand) (bs : List Byte) (rest : List Line), s.script = .wr a data :: rest →
    dataBytes s.binds data = some bs → (∀ i, decodeByte .addr (addrByte true a) ≠ .ok i) →
      step s = .refused (.burstNotAdmitted a.toNat bs.length)) ∧
  (∀ (s : State) (a : RegAddr) (data : List Operand) (rest : List Line), s.script = .wr a data :: rest →
    dataBytes s.binds data = none → step s = .fault .unboundName) ∧
  (∀ (s : State) (c : HostCall) (rest : List Line), s.script = .call c :: rest →
    step s = runCall c { s with script := rest }) ∧
  (∀ s : State, s.script = [] → step s = .next s)

/-- 30_encoding.md R109: once a named CORE line has run, its output ports are the values later lines read under that
name, and a named read's bytes likewise. -/
def Obligations.NamedResultsFeedLaterLines : Prop :=
  (∀ (s t : State) (k : Nat) (c : Byte) (ports : List (InPort × Operand)) (rest : List Line) (p : OutPort),
    s.script = .core (some k) c ports :: rest → step s = .next t →
      operandValue t.binds (.port k p) = some (outPort t.out p)) ∧
  (∀ (s t : State) (k : Nat) (a : RegAddr) (n j : Nat) (rest : List Line),
    s.script = .rd (some k) a n :: rest → step s = .next t →
      t.rd.length = n ∧ operandValue t.binds (.byte k j) = (t.rd[j]?).map (·.toNat))

/-- 30_encoding.md R110, with every kind of value R109 gives an operand (a number, a bound port, a bound byte): GETFMT
gives the format bit of the byte in `A[7:0]`, ISVALID the validity by the parameter, LEAP2 and MDAYS2 the calendar helper
for the year `2000 + yy` in `A[15:0]`. -/
def Obligations.PseudoInstructionsExpand : Prop :=
  (∀ (s : State) (name : Option Nat) (v : Operand) (b : Nat), operandValue s.binds v = some b → b < 2 ^ 32 →
    (∃ t, runLine (pseudoGetfmt name v) s = .next t ∧ t.out.rs = 0b00 ∧ t.out.fmtOut.toNat = b / 64 % 2) ∧
    (∃ t, runLine (pseudoIsvalid s.params name v) s = .next t ∧ t.out.rs = 0b00 ∧
      t.out.validOut.toNat =
        match s.params.validityLoc with
        | .month => b / 128 % 2
        | .status => 1 - b / 128 % 2)) ∧
  (∀ (s : State) (name : Option Nat) (v : Operand) (yy : Nat), operandValue s.binds v = some yy → 2000 + yy < 2 ^ 32 →
    (∃ t, runLine (pseudoLeap2 name v) s = .next t ∧ t.out.rs = 0b00 ∧
      t.out.y.toNat = if leapYear ((2000 + yy) % 65536) then 1 else 0) ∧
    ∀ (w : Operand) (m : Nat), operandValue s.binds w = some m → 1 ≤ m → m ≤ 12 →
      ∃ t, runLine (pseudoMdays2 name v w) s = .next t ∧ t.out.rs = 0b00 ∧
        t.out.y.toNat = daysInMonth ((2000 + yy) % 65536) m)

/-- 10_state.md R50, 20_memory.md R80, 48_host_interface.md R284, R287: every step, whatever line it runs, keeps the
image canonical and confined to the registers the document names, and leaves the device deselected. -/
def Obligations.EveryStepKeepsTheSystemInvariant : Prop :=
  ∀ s t : State, SystemInv s → step s = .next t → SystemInv t

/-- The invariant holds at power-on. -/
def Obligations.PowerOnMeetsTheSystemInvariant : Prop := SystemInv State.reset

/-- 00_scope.md R8, 70_reset_and_hazards.md R371: no step changes a parameter; nor does one change the premises about the
device and the transport (the model's fields, log 6). -/
def Obligations.NoStepChangesAParameter : Prop :=
  ∀ s t : State, step s = .next t →
    t.params = s.params ∧ t.deviceStopped = s.deviceStopped ∧ t.linkUp = s.linkUp

/-- 48_host_interface.md R280, R284, R287; 30_encoding.md R109: a well-formed line whose names are bound completes on a
working transport; getCentury needs `STATUS` (R291). -/
def Obligations.WellFormedLinesComplete : Prop :=
  ∀ (s : State) (l : Line), Line.wf l = true → lineBound s.binds l = true → s.linkUp = true →
    (l = .call .getCentury → s.params.validityLoc = .status) → completes (runLine l s)

/-- 10_state.md R53, R54; 70_reset_and_hazards.md R370, R372; 00_scope.md R8: at power-on every device register holds its
power-on draw, every output port is a draw, and the parameters are the defaults. -/
def Obligations.PowerOnStateIsDraws : Prop :=
  (∀ a : Nat, Memory.read State.reset.mem a = Config.powerOn a) ∧
  (∀ p : OutPort, outPort State.reset.out p = outPort (unspecifiedOutputs 0) p) ∧
  State.reset.ptr = Config.pointerAtPowerOn ∧
  State.reset.params.validityLoc = .month ∧ State.reset.params.hour12Rule = .contract ∧
  State.reset.params.trickle250d = .codeA9 ∧ State.reset.params.readFill = Config.readFill

/-- 10_state.md R30: a transaction's outputs depend on its inputs, the parameters and the draw number alone, and it
changes nothing else; so nothing computed in one transaction is visible in a later one. -/
def Obligations.TransactionsHoldNothing : Prop :=
  (∀ s s' : State, s.inp = s'.inp → s.params = s'.params → s.draws = s'.draws →
    ∃ t t', coreTransaction s = .next t ∧ coreTransaction s' = .next t' ∧ t.out = t'.out ∧
      CoreFrame s t ∧ CoreFrame s' t') ∧
  (∀ (s t : State) (c : Byte) (inp : Inputs), coreTransaction s = .next t →
    issue c inp t = issue c inp { s with draws := s.draws + 1 })

/-- 10_state.md R33, 30_encoding.md R103: the ports an operation does not read do not matter to it. -/
def Obligations.UnreadPortsAreIgnored : Prop :=
  ∀ (i : Instr) (s t : State) (inp : Inputs), i.channel = .cmd → exec i s = .next t →
    (∀ p ∈ i.reads, getPort inp p = getPort s.inp p) →
    ∃ u, exec i { s with inp := inp } = .next u ∧ u.out = t.out

/-- 30_encoding.md R103: bits of `A` above the stated slice are ignored: above bit 7 by the byte operations, above bit 15
by LEAP and MDAYS; H12TO24 reads only bit 0 of `B`. -/
def Obligations.OperandBitsAboveTheSliceAreIgnored : Prop :=
  (∀ i ∈ [Instr.bcdenc, .bcddec, .fdecHs, .fdecSec, .fdecMin, .fdecHour, .fdecWday, .fdecDay, .fdecMonth, .fdecYear,
      .fdecStatus, .h12to24, .h24to12], ∀ (s t : State) (a : Scalar), exec i s = .next t → a.toNat % 256 = lowByte s →
    ∃ u, exec i { s with inp := { s.inp with a := a } } = .next u ∧ u.out = t.out) ∧
  (∀ i ∈ [Instr.leap, .mdays], ∀ (s t : State) (a : Scalar), exec i s = .next t → a.toNat % 65536 = lowHalf s →
    ∃ u, exec i { s with inp := { s.inp with a := a } } = .next u ∧ u.out = t.out) ∧
  (∀ (s t : State) (b : Byte), exec .h12to24 s = .next t → b.toNat % 2 = s.inp.b.toNat % 2 →
    ∃ u, exec .h12to24 { s with inp := { s.inp with b := b } } = .next u ∧ u.out = t.out)

/-- 30_encoding.md R104, 00_scope.md R16: a legal operation drives only the ports the table lists for it, plus `RS` and
`ST_WE`; the rest are draws. -/
def Obligations.OnlyTheListedPortsAreDriven : Prop :=
  ∀ (i : Instr) (s : State), i.channel = .cmd → i.wf s.params = true →
    Answers i s (i.drives s.params) fun o => (i ≠ .frmenc → o.stWe = 0)

/-! ## The Illegal response -/

/-- 60_exceptions.md R341: the response to an illegal word, and that the next transaction is answered from its own
inputs only. -/
def Obligations.IllegalResponseHasNoOtherEffect : Prop :=
  ∀ s : State, legalWord s.params s.inp.cmd = false →
    ∃ t, coreTransaction s = .next t ∧ IllegalAnswer s t ∧
      ∀ (c : Byte) (inp : Inputs), issue c inp t = issue c inp { s with draws := s.draws + 1 }

/-! ## BCD codec -/

/-- 40_bcd_codec.md R140, R142: BCDENC packs `A[7:0]` as `(((v div 10) << 4) | (v mod 10)) mod 256`, for every byte. -/
def Obligations.BcdencPacksTheByte : Prop :=
  EncodedAs .bcdenc 0x10 ∧ OnlySelZero 0x1 ∧
  ∀ s : State, Answers .bcdenc s [.y] (yIs (lowByte s / 10 % 16 * 16 + lowByte s % 10))

/-- 40_bcd_codec.md R141, R143: BCDDEC weighs the nibbles of every byte, valid BCD or not; the result is at most 165. -/
def Obligations.BcddecWeighsTheNibbles : Prop :=
  EncodedAs .bcddec 0x20 ∧ OnlySelZero 0x2 ∧
  ∀ s : State, weighed (lowByte s) ≤ 165 ∧ Answers .bcddec s [.y] (yIs (weighed (lowByte s)))

/-- 40_bcd_codec.md R144: BCDDEC of BCDENC's result gives the number back exactly for 0..159. -/
def Obligations.EncodeThenDecodeIsIdentityBelow160 : Prop :=
  ∀ s : State, ∃ t u, issue 0x10 s.inp s = .next t ∧ issue 0x20 { t.inp with a := t.out.y } t = .next u ∧
    (u.out.y.toNat = lowByte s ↔ lowByte s ≤ 159)

/-- 40_bcd_codec.md R145: BCDENC of BCDDEC's result gives the byte back exactly when its low nibble is a digit; on valid
BCD bytes BCDDEC is one-to-one onto [0,99]; over all bytes it is not one-to-one. -/
def Obligations.DecodeThenEncodeOnValidBcd : Prop :=
  (∀ s : State, ∃ t u, issue 0x20 s.inp s = .next t ∧ issue 0x10 { t.inp with a := t.out.y } t = .next u ∧
    (u.out.y.toNat = lowByte s ↔ lowByte s % 16 ≤ 9) ∧
    (lowByte s / 16 ≤ 9 → lowByte s % 16 ≤ 9 → t.out.y.toNat ≤ 99)) ∧
  (∀ n ≤ 99, ∃ b : Byte, b.toNat / 16 ≤ 9 ∧ b.toNat % 16 ≤ 9 ∧ bcdDec b = n ∧
    ∀ c : Byte, c.toNat / 16 ≤ 9 → c.toNat % 16 ≤ 9 → bcdDec c = n → c = b) ∧
  (∃ b c : Byte, b ≠ c ∧ bcdDec b = bcdDec c)

/-! ## Frame codec, single fields -/

/-- 41_frame_codec.md R168, R169, R170, R172, R173, R175: the six plain FENC operations clamp their field to its range
and pack it. -/
def Obligations.PlainFencClampsAndPacks : Prop :=
  EncodedAs .fencHs 0x30 ∧ EncodedAs .fencSec 0x31 ∧ EncodedAs .fencMin 0x32 ∧ EncodedAs .fencWday 0x34 ∧
  EncodedAs .fencDay 0x35 ∧ EncodedAs .fencYear 0x37 ∧
  ∀ s : State,
    Answers .fencHs s [.y] (yIs (packed (clamped s.inp.cal.hs.toNat 0 99))) ∧
    Answers .fencSec s [.y] (yIs (packed (clamped s.inp.cal.sec.toNat 0 59))) ∧
    Answers .fencMin s [.y] (yIs (packed (clamped s.inp.cal.min.toNat 0 59))) ∧
    Answers .fencWday s [.y] (yIs (packed (clamped s.inp.cal.wd.toNat 1 7))) ∧
    Answers .fencDay s [.y] (yIs (packed (clamped s.inp.cal.day.toNat 1 31))) ∧
    Answers .fencYear s [.y] (yIs (packed (clamped s.inp.cal.yr.toNat 0 99)))

/-- 41_frame_codec.md R162, R171: FENC.HOUR by the format input: H24 clamps to [0,23] with bits 7 and 6 clear, H12
clamps to [1,12] with AM/PM in bit 5 and bit 6 set. -/
def Obligations.FencHourPacksByFormat : Prop :=
  EncodedAs .fencHour 0x33 ∧
  ∀ s : State, Answers .fencHour s [.y]
    (yIs (hourByte s.inp.fmt.toNat s.inp.cal.hr.toNat s.inp.cal.ampm.toNat))

/-- 41_frame_codec.md R174: FENC.MONTH packs the clamped month beside cov in bit 7, under either parameter value. -/
def Obligations.FencMonthPacksBesideCov : Prop :=
  EncodedAs .fencMonth 0x36 ∧
  ∀ s : State, Answers .fencMonth s [.y] (yIs (monthByte s.inp.cal.mon.toNat s.inp.cal.cov.toNat))

/-- 41_frame_codec.md R176: FENC.STATUS puts the inverted validity in bit 7 and passes bits 6:0 through, under STATUS;
under MONTH it is Illegal. -/
def Obligations.FencStatusInvertsValidity : Prop :=
  EncodedAs .fencStatus 0x3E ∧
  ∀ s : State,
    (s.params.validityLoc = .status →
      Answers .fencStatus s [.y] (yIs (statusByte s.inp.valid.toNat s.inp.stIn.toNat))) ∧
    (s.params.validityLoc = .month → ∃ t, exec .fencStatus s = .next t ∧ IllegalAnswer s t)

/-- 41_frame_codec.md R177, R178, R179, R181, R182, R184: the six straight FDEC operations weigh all eight bits and
clamp nothing. -/
def Obligations.StraightFdecWeighsAllBits : Prop :=
  EncodedAs .fdecHs 0x40 ∧ EncodedAs .fdecSec 0x41 ∧ EncodedAs .fdecMin 0x42 ∧ EncodedAs .fdecWday 0x44 ∧
  EncodedAs .fdecDay 0x45 ∧ EncodedAs .fdecYear 0x47 ∧
  ∀ i ∈ [Instr.fdecHs, .fdecSec, .fdecMin, .fdecWday, .fdecDay, .fdecYear], ∀ s : State,
    Answers i s [.y] (yIs (weighed (lowByte s)))

/-- 41_frame_codec.md R163, R180: FDEC.HOUR by the byte's own bit 6: six bits and AM in H24, five bits and bit 5 in H12;
bit 7 is ignored and nothing is clamped. -/
def Obligations.FdecHourReadsTheByteFormat : Prop :=
  EncodedAs .fdecHour 0x43 ∧
  ∀ s : State, Answers .fdecHour s [.y, .fmtOut, .ampmOut] fun o =>
    if lowByte s / 64 % 2 = 0 then yIs (weighed (lowByte s % 64)) o ∧ o.fmtOut.toNat = 0 ∧ o.ampmOut.toNat = 0
    else yIs (weighed (lowByte s % 32)) o ∧ o.fmtOut.toNat = 1 ∧ o.ampmOut.toNat = lowByte s / 32 % 2

/-- 41_frame_codec.md R183: FDEC.MONTH masks bit 7 off the month and returns it as cov; it is the validity under MONTH
only. -/
def Obligations.FdecMonthSplitsCov : Prop :=
  EncodedAs .fdecMonth 0x46 ∧
  ∀ s : State,
    (s.params.validityLoc = .month → Answers .fdecMonth s [.y, .covOut, .validOut] fun o =>
      yIs (weighed (lowByte s % 128)) o ∧ o.covOut.toNat = lowByte s / 128 ∧ o.validOut.toNat = lowByte s / 128) ∧
    (s.params.validityLoc = .status → Answers .fdecMonth s [.y, .covOut] fun o =>
      yIs (weighed (lowByte s % 128)) o ∧ o.covOut.toNat = lowByte s / 128)

/-- 41_frame_codec.md R185: FDEC.STATUS drives VALID_OUT alone, with the inverted bit 7, under STATUS; under MONTH it is
Illegal. -/
def Obligations.FdecStatusReadsValidity : Prop :=
  EncodedAs .fdecStatus 0x4E ∧
  ∀ s : State,
    (s.params.validityLoc = .status →
      Answers .fdecStatus s [.validOut] fun o => o.stWe = 0 ∧ o.validOut.toNat = 1 - lowByte s / 128) ∧
    (s.params.validityLoc = .month → ∃ t, exec .fdecStatus s = .next t ∧ IllegalAnswer s t)

/-! ## Frame codec, whole frame -/

/-- 41_frame_codec.md R186: FRMENC's eight bytes, and its status byte and write request by the parameter. -/
def Obligations.FrmencEncodesTheFrame : Prop :=
  EncodedAs .frmenc 0x50 ∧ OnlySelZero 0x5 ∧
  ∀ s : State, Answers .frmenc s (.stOut :: OutPort.rawAll) fun o =>
    let c := s.inp.cal
    o.raw.hundredths.toNat = packed (clamped c.hs.toNat 0 99) ∧
    o.raw.second.toNat = packed (clamped c.sec.toNat 0 59) ∧
    o.raw.minute.toNat = packed (clamped c.min.toNat 0 59) ∧
    o.raw.hour.toNat = hourByte s.inp.fmt.toNat c.hr.toNat c.ampm.toNat ∧
    o.raw.weekday.toNat = packed (clamped c.wd.toNat 1 7) ∧
    o.raw.day.toNat = packed (clamped c.day.toNat 1 31) ∧
    o.raw.month.toNat = monthByte c.mon.toNat c.cov.toNat ∧
    o.raw.year.toNat = packed (clamped c.yr.toNat 0 99) ∧
    match s.params.validityLoc with
    | .status => o.stOut.toNat = statusByte s.inp.valid.toNat s.inp.stIn.toNat ∧ o.stWe = 1
    | .month => o.stOut = s.inp.stIn ∧ o.stWe = 0

/-- 41_frame_codec.md R187: FRMDEC decodes every byte without clamping, the hour by its own format bit, and drives the
four flags. -/
def Obligations.FrmdecDecodesTheFrame : Prop :=
  EncodedAs .frmdec 0x60 ∧ OnlySelZero 0x6 ∧
  ∀ s : State, Answers .frmdec s (calLane 0 :: calLane 1 :: calLane 2 :: calLane 3 :: calLane 4 :: calLane 5 :: calLane 6 ::
      calLane 7 :: [.fmtOut, .ampmOut, .covOut, .validOut]) fun o =>
    let r := s.inp.raw
    let h := r.hour.toNat
    o.stWe = 0 ∧
    o.cal.hs.toNat = weighed r.hundredths.toNat ∧ o.cal.sec.toNat = weighed r.second.toNat ∧
    o.cal.min.toNat = weighed r.minute.toNat ∧ o.cal.wd.toNat = weighed r.weekday.toNat ∧
    o.cal.day.toNat = weighed r.day.toNat ∧ o.cal.yr.toNat = weighed r.year.toNat ∧
    (if h / 64 % 2 = 0 then o.cal.hr.toNat = weighed (h % 64) ∧ o.fmtOut.toNat = 0 ∧ o.ampmOut.toNat = 0
      else o.cal.hr.toNat = weighed (h % 32) ∧ o.fmtOut.toNat = 1 ∧ o.ampmOut.toNat = h / 32 % 2) ∧
    o.cal.mon.toNat = weighed (r.month.toNat % 128) ∧ o.covOut.toNat = r.month.toNat / 128 ∧
    match s.params.validityLoc with
    | .month => o.validOut.toNat = r.month.toNat / 128
    | .status => o.validOut.toNat = 1 - s.inp.stIn.toNat / 128

/-- 41_frame_codec.md R188: lane k of FRMENC is FENC with SEL = k on the same inputs, lane k of FRMDEC is FDEC with
SEL = k on byte k, and a lane of FRMENC depends on its own ports only. -/
def Obligations.FrameLanesAreTheFieldOperations : Prop :=
  (∀ (s t : State) (k : Fin 8), exec .frmenc s = .next t →
    ∃ u, exec (fencLane k) s = .next u ∧ outPort t.out (.raw k) = u.out.y.toNat % 256) ∧
  (∀ (s t : State) (k : Fin 8), exec .frmdec s = .next t →
    ∃ u, exec (fdecLane k) { s with inp := { s.inp with a := BitVec.ofNat 32 (getPort s.inp (.raw k)) } } = .next u ∧
      outPort t.out (calLane k) = u.out.y.toNat ∧
      (k = 3 → t.out.fmtOut = u.out.fmtOut ∧ t.out.ampmOut = u.out.ampmOut) ∧
      (k = 6 → t.out.covOut = u.out.covOut ∧ (s.params.validityLoc = .month → t.out.validOut = u.out.validOut))) ∧
  (∀ (s t : State) (inp : Inputs) (k : Fin 8), exec .frmenc s = .next t →
    (∀ p ∈ lanePorts k, getPort inp p = getPort s.inp p) →
    ∃ u, exec .frmenc { s with inp := inp } = .next u ∧ outPort u.out (.raw k) = outPort t.out (.raw k))

/-- 41_frame_codec.md R189: FRMDEC of FRMENC's frame (and status byte) returns every field, the format, AM/PM, cov, and
the validity: cov under MONTH, the encoded VALID under STATUS. -/
def Obligations.FrameRoundTrip : Prop :=
  ∀ s : State, inDomain s.inp.cal s.inp.fmt →
    ∃ t, exec .frmenc s = .next t ∧
      ∃ u, exec .frmdec { t with inp := { t.inp with raw := t.out.raw, stIn := t.out.stOut } } = .next u ∧
        let c := s.inp.cal
        let o := u.out
        o.cal = { hs := c.hs, sec := c.sec, min := c.min, hr := c.hr, wd := c.wd, day := c.day, mon := c.mon, yr := c.yr } ∧
        o.fmtOut = s.inp.fmt ∧ o.ampmOut = c.ampm ∧ o.covOut = c.cov ∧
        match s.params.validityLoc with
        | .month => o.validOut = c.cov
        | .status => o.validOut = s.inp.valid

/-! ## Epoch converter -/

/-- 42_epoch_converter.md R221, R229: LEAP of the absolute year in `A[15:0]`. -/
def Obligations.LeapIsTheGregorianRule : Prop :=
  EncodedAs .leap 0x70 ∧ OnlySelZero 0x7 ∧
  ∀ s : State, Answers .leap s [.y] (yIs (if leapYear (lowHalf s) then 1 else 0))

/-- 42_epoch_converter.md R230: MDAYS gives the month's length for a month in [1,12]; outside, `Y` is a draw and `RS` is
OK. -/
def Obligations.MdaysGivesTheMonthLength : Prop :=
  EncodedAs .mdays 0x80 ∧ OnlySelZero 0x8 ∧
  ∀ s : State,
    if 1 ≤ s.inp.b.toNat ∧ s.inp.b.toNat ≤ 12 then Answers .mdays s [.y] (yIs (daysInMonth (lowHalf s) s.inp.b.toNat))
    else Answers .mdays s [] fun o => o.stWe = 0

/-- 42_epoch_converter.md R223, R231: WDAY on every 32-bit day number. -/
def Obligations.WdayIsTotal : Prop :=
  EncodedAs .wday 0x90 ∧ OnlySelZero 0x9 ∧
  ∀ s : State, Answers .wday s [.y] (yIs (weekdayOf s.inp.a.toNat))

/-- 42_epoch_converter.md R224, R232: H12TO24 under either rule. -/
def Obligations.H12to24UnderEitherRule : Prop :=
  EncodedAs .h12to24 0xA0 ∧ OnlySelZero 0xA ∧
  ∀ s : State, Answers .h12to24 s [.y] (yIs (hour24 s.params.hour12Rule (lowByte s) (s.inp.b.toNat % 2)))

/-- 42_epoch_converter.md R225, R233: H24TO12 for an hour of [0,23]; above, `Y` and `AMPM_OUT` are draws and `RS` is
OK. -/
def Obligations.H24to12WithinTheDay : Prop :=
  EncodedAs .h24to12 0xB0 ∧ OnlySelZero 0xB ∧
  ∀ s : State,
    if lowByte s ≤ 23 then Answers .h24to12 s [.y, .ampmOut] fun o =>
      yIs (hour12 (lowByte s)) o ∧ o.ampmOut.toNat = (if 12 ≤ lowByte s then 1 else 0)
    else Answers .h24to12 s [] fun o => o.stWe = 0

/-- 42_epoch_converter.md R226, R227, R234: TOEPOCH is the sum of the steps modulo 2^32; for a month outside [1,12] `Y` is
a draw. -/
def Obligations.ToepochSumsTheSteps : Prop :=
  EncodedAs .toepoch 0xC0 ∧ OnlySelZero 0xC ∧
  ∀ s : State,
    if 1 ≤ s.inp.cal.mon.toNat ∧ s.inp.cal.mon.toNat ≤ 12 then
      Answers .toepoch s [.y] fun o => o.stWe = 0 ∧
        (o.y.toNat : Int) = epochSum s.params.hour12Rule s.inp.cal s.inp.fmt (hours s.inp.tz) % 2 ^ 32
    else Answers .toepoch s [] fun o => o.stWe = 0

/-- 42_epoch_converter.md R228, R235, R236: FROMEPOCH gives the one date whose day number is the local day, its time, its
weekday, and YR only in 2000-2099; outside [0, 2^32) every field is a draw; HS and COV_OUT are never driven. -/
def Obligations.FromepochFindsTheDate : Prop :=
  EncodedAs .fromepoch 0xD0 ∧ OnlySelZero 0xD ∧
  ∀ s : State,
    let loc : Int := s.inp.a.toNat + 3600 * hours s.inp.tz
    if loc < 0 ∨ 2 ^ 32 ≤ loc then Answers .fromepoch s [] fun o => o.stWe = 0
    else
      ∃ y m d : Nat, 1970 ≤ y ∧ 1 ≤ m ∧ m ≤ 12 ∧ 1 ≤ d ∧ d ≤ daysInMonth y m ∧
        daysBeforeYear y + daysBeforeMonth y m + (d - 1) = loc.toNat / 86400 ∧
        Answers .fromepoch s
          ((if 2000 ≤ y ∧ y ≤ 2099 then [.calYr] else []) ++
            [.calSec, .calMin, .calHr, .calWd, .calDay, .calMon, .ampmOut]) fun o =>
          o.stWe = 0 ∧
          o.cal.sec.toNat = loc.toNat % 60 ∧ o.cal.min.toNat = loc.toNat / 60 % 60 ∧
          (if s.inp.fmt = 1 then o.cal.hr.toNat = hour12 (loc.toNat / 3600 % 24) ∧
              o.ampmOut.toNat = (if 12 ≤ loc.toNat / 3600 % 24 then 1 else 0)
            else o.cal.hr.toNat = loc.toNat / 3600 % 24 ∧ o.ampmOut = 0) ∧
          o.cal.wd.toNat = weekdayOf (loc.toNat / 86400) ∧ o.cal.day.toNat = d ∧ o.cal.mon.toNat = m ∧
          (2000 ≤ y ∧ y ≤ 2099 → o.cal.yr.toNat = y - 2000)

/-- 42_epoch_converter.md R237: FROMEPOCH of TOEPOCH's result returns every field of a contract value, for a timezone of
[-12,12] and either format, under CONTRACT; under LITERAL it fails exactly for H12 and hour 12. -/
def Obligations.EpochRoundTripContract : Prop :=
  ∀ s : State, contractValue s.inp.cal s.inp.fmt → -12 ≤ hours s.inp.tz → hours s.inp.tz ≤ 12 →
    ∃ t, exec .toepoch s = .next t ∧ ∃ u, exec .fromepoch { t with inp := { t.inp with a := t.out.y } } = .next u ∧
      let c := s.inp.cal
      let o := u.out.cal
      ((o.sec = c.sec ∧ o.min = c.min ∧ o.hr = c.hr ∧ u.out.ampmOut = c.ampm ∧ o.wd = c.wd ∧ o.day = c.day ∧
          o.mon = c.mon ∧ o.yr = c.yr) ↔
        ¬ (s.params.hour12Rule = .literal ∧ s.inp.fmt = 1 ∧ c.hr = 12))

/-- 42_epoch_converter.md R238: the ranges of the unwrapped sum: for contract values, for any 8-bit value, and with
YR ≤ 99, where TOEPOCH never wraps; for contract values no field of FROMEPOCH is left open; the extremes given are
attained. -/
def Obligations.ToepochRanges : Prop :=
  (∀ (c : CalendarValue) (fmt : Bit) (tz : Int), contractValue c fmt → -12 ≤ tz → tz ≤ 12 →
    946641600 ≤ toEpochSum .contract c fmt tz ∧ toEpochSum .contract c fmt tz ≤ 4102487999 ∧
    946684800 ≤ toEpochSum .contract c fmt tz + 3600 * tz ∧ toEpochSum .contract c fmt tz + 3600 * tz ≤ 4102444799 ∧
    ∃ r y, fromEpoch (toEpochSum .contract c fmt tz).toNat fmt tz = some r ∧ r.yr = some y) ∧
  (∀ (rule : Hour12Rule) (c : CalendarValue) (fmt : Bit) (tz : Int), 1 ≤ c.mon.toNat → c.mon.toNat ≤ 12 →
    -128 ≤ tz → tz ≤ 127 →
    946684800 - 86400 - 127 * 3600 ≤ toEpochSum rule c fmt tz ∧
    (c.yr.toNat ≤ 99 → toEpochSum rule c fmt tz ≤ 4123149555)) ∧
  (∃ (c : CalendarValue) (fmt : Bit), contractValue c fmt ∧ toEpochSum .contract c fmt 12 = 946641600) ∧
  (∃ (c : CalendarValue) (fmt : Bit), contractValue c fmt ∧ toEpochSum .contract c fmt (-12) = 4102487999) ∧
  (∃ c : CalendarValue, c.yr.toNat = 99 ∧ c.mon.toNat = 12 ∧ toEpochSum .literal c 1 (-128) = 4123149555)

/-- From 42_epoch_converter.md R226, R228: TOEPOCH inverts FROMEPOCH on every epoch whose local date is in 2000-2099,
under CONTRACT, for any 8-bit timezone and either format. -/
def Obligations.ToepochInvertsFromepoch : Prop :=
  ∀ s : State, s.params.hour12Rule = .contract →
    946684800 ≤ (s.inp.a.toNat : Int) + 3600 * hours s.inp.tz → (s.inp.a.toNat : Int) + 3600 * hours s.inp.tz ≤ 4102444799 →
    ∃ t, exec .fromepoch s = .next t ∧
      ∃ u, exec .toepoch { t with inp := { t.inp with cal := calendarWith t.out.cal 0 t.out.ampmOut 0 } } = .next u ∧
        u.out.y = s.inp.a

/-! ## The device -/

/-- 48_host_interface.md R282, R286; 20_memory.md R81: an admitted read by each of the ten read rows, on a working
transport: one exchange of the address byte and n fill bytes; byte k is register a + k if the device is stopped, and a
draw if not; the image does not change, and nothing outside the device link, the bytes read and the draw counter
does. That the pointer stands at 0x10 after a byte at 0x0F is the model's choice (log 18). -/
def Obligations.DeviceReadsReturnTheRegisters : Prop :=
  ∀ ia ∈ readRows, ∀ s : State, s.linkUp = true → 1 ≤ s.burst.count → touchesOnlyNamed ia.2 s.burst.count →
    ∃ t, exec ia.1 s = .next t ∧ t.rd.length = s.burst.count ∧
      (∀ k, k < s.burst.count → t.rd[k]? = some
        (if s.deviceStopped then Memory.read s.mem (ia.2 + k) else Config.deviceByte (s.draws + k))) ∧
      t = { s with
        rd := t.rd
        ptr := BitVec.ofNat 7 (ia.2 + s.burst.count)
        link := .deselected
        sent := []
        trace := (BitVec.ofNat 8 ia.2 :: List.replicate s.burst.count s.params.readFill) :: s.trace
        draws := s.draws + s.burst.count }

/-- 48_host_interface.md R283: an admitted write by each of the ten write rows, on a working transport: one exchange of
the address byte 0x80 | a and the bytes; register a + k gets byte k, every other register is as before; nothing
outside the device link and the image changes. That the pointer stands at 0x10 after a byte at 0x0F is the model's choice
(log 18). -/
def Obligations.DeviceWritesStoreTheBytes : Prop :=
  ∀ ia ∈ writeRows, ∀ s : State, s.linkUp = true → 1 ≤ s.burst.data.length → touchesOnlyNamed ia.2 s.burst.data.length →
    ∃ t, exec ia.1 s = .next t ∧
      (∀ x, Memory.read t.mem x =
        match (if ia.2 ≤ x then s.burst.data[x - ia.2]? else none) with
        | some b => b
        | none => Memory.read s.mem x) ∧
      t = { s with
        mem := t.mem
        ptr := BitVec.ofNat 7 (ia.2 + s.burst.data.length)
        link := .deselected
        sent := []
        trace := (BitVec.ofNat 8 (128 + ia.2) :: s.burst.data) :: s.trace }

/-- From 48_host_interface.md R282, R283, R284: a burst is admitted exactly when it moves a byte and touches only named
registers; those are the bursts inside 0x00-0x07, the single accesses and the pair at 0x0E-0x0F; any other burst is
refused. R282 and R283 define bursts of n ≥ 1 only: that a burst of no byte is refused by name is the model's (log 11). -/
def Obligations.OnlyNamedBurstsAreAdmitted : Prop :=
  (∀ a n : Nat, admitted a n = true ↔ 1 ≤ n ∧ touchesOnlyNamed a n) ∧
  (∀ a n : Nat, admitted a n = true ↔ 1 ≤ n ∧ (a + n ≤ 8 ∨ (14 ≤ a ∧ a + n ≤ 16))) ∧
  (∀ ia ∈ readRows, ∀ s : State, admitted ia.2 s.burst.count = false →
    exec ia.1 s = .refused (.burstNotAdmitted ia.2 s.burst.count)) ∧
  (∀ ia ∈ writeRows, ∀ s : State, admitted ia.2 s.burst.data.length = false →
    exec ia.1 s = .refused (.burstNotAdmitted ia.2 s.burst.data.length)) ∧
  (∀ (s : State) (name : Option Nat) (a : RegAddr) (n : Nat), admitted a.toNat n = false →
    runLine (.rd name a n) s = .refused (.burstNotAdmitted a.toNat n)) ∧
  (∀ (s : State) (a : RegAddr) (data : List Operand) (bs : List Byte), dataBytes s.binds data = some bs →
    admitted a.toNat bs.length = false → runLine (.wr a data) s = .refused (.burstNotAdmitted a.toNat bs.length))

/-- 20_memory.md R81, R84: while the device is stopped and powered, a read returns the bytes the last completed write
left. -/
def Obligations.ReadAfterWriteWhileStopped : Prop :=
  ∀ (s : State) (a : RegAddr) (v : List Byte), Quiet s → admitted a.toNat v.length = true →
    ∃ t, memWrite a v s = .next t ∧ ∃ u, memRead a v.length t = .next u ∧ u.rd = v ∧ u.mem = t.mem

/-- 48_host_interface.md R287: an exchange that does not complete has no step: the host is stuck, on every admitted
burst. -/
def Obligations.IncompleteExchangeIsStuck : Prop :=
  (∀ ia ∈ readRows, ∀ s : State, s.linkUp = false → admitted ia.2 s.burst.count = true →
    exec ia.1 s = .fault .exchangeIncomplete) ∧
  (∀ ia ∈ writeRows, ∀ s : State, s.linkUp = false → admitted ia.2 s.burst.data.length = true →
    exec ia.1 s = .fault .exchangeIncomplete)

/-! ## The host's operations, on a stopped device and a working transport -/

/-- 48_host_interface.md R288, R291: every getter returns its register's decoded value and changes no register. -/
def Obligations.GettersReturnTheDecodedRegister : Prop :=
  ∀ s : State, Quiet s →
    let returns (c : HostCall) (v : Nat) : Prop :=
      ∃ t, runCall c s = .next t ∧ t.ret = some (.value (BitVec.ofNat 32 v)) ∧ t.mem = s.mem ∧
        writeCount t.trace = writeCount s.trace
    let h := stored s 0x03
    let hour := if h / 64 % 2 = 0 then weighed (h % 64) else weighed (h % 32)
    let valid := match s.params.validityLoc with
      | .month => stored s 0x06 / 128
      | .status => 1 - stored s 0x0E / 128
    returns .getFormat (h / 64 % 2) ∧ returns .getHundredths (weighed (stored s 0x00)) ∧
    returns .getSecond (weighed (stored s 0x01)) ∧ returns .getMinute (weighed (stored s 0x02)) ∧
    returns .getHour hour ∧ returns .getAmPm (if h / 64 % 2 = 0 then 0 else h / 32 % 2) ∧
    returns .getWeekday (weighed (stored s 0x04)) ∧ returns .getDay (weighed (stored s 0x05)) ∧
    returns .getMonth (weighed (stored s 0x06 % 128)) ∧ returns .getYear (weighed (stored s 0x07)) ∧
    returns .getValidity valid ∧
    (s.params.validityLoc = .status → returns .getCentury (stored s 0x06 / 128)) ∧
    (s.params.validityLoc = .month → runCall .getCentury s = .refused .noCentury)

/-- 48_host_interface.md R289: setFormat flips bit 6 of the hour register only, and re-asserts validity; it rejects a
mode outside {0, 1} and does nothing when the mode is already set. -/
def Obligations.SetFormatFlipsOneBit : Prop :=
  ∀ (s : State) (mode : Byte), Quiet s →
    (1 < mode.toNat → EndsUnchanged (.setFormat mode) s) ∧
    (mode.toNat ≤ 1 → stored s 0x03 / 64 % 2 = mode.toNat → EndsUnchanged (.setFormat mode) s) ∧
    (mode.toNat ≤ 1 → stored s 0x03 / 64 % 2 ≠ mode.toNat →
      EndsWritten (.setFormat mode) s 0x03 (stored s 0x03 / 128 * 128 + mode.toNat * 64 + stored s 0x03 % 64))

/-- 48_host_interface.md R292: each plain setter does nothing when the value is the decoded stored one, and else writes
the clamped value in BCD and re-asserts validity. -/
def Obligations.PlainSettersClampAndWrite : Prop :=
  ∀ x ∈ plainSetters, ∀ (s : State) (v : Byte), Quiet s →
    (v.toNat = weighed (stored s x.2.1) → EndsUnchanged (x.1 v) s) ∧
    (v.toNat ≠ weighed (stored s x.2.1) →
      EndsWritten (x.1 v) s x.2.1 (packed (clamped v.toNat x.2.2.1 x.2.2.2)))

/-- 48_host_interface.md R293: setHour keeps the stored format and AM/PM bit. -/
def Obligations.SetHourKeepsFormatAndAmPm : Prop :=
  ∀ (s : State) (v : Byte), Quiet s →
    let h := stored s 0x03
    let fmt := h / 64 % 2
    let hour := if fmt = 0 then weighed (h % 64) else weighed (h % 32)
    (v.toNat = hour → EndsUnchanged (.setHour v) s) ∧
    (v.toNat ≠ hour → EndsWritten (.setHour v) s 0x03 (hourByte fmt v.toNat (h / 32 % 2)))

/-- 48_host_interface.md R294: setAmPm is rejected in H24 and for a code outside {0, 1}, does nothing when the code is the
stored one, and else writes the hour byte with the code and the format bit set. -/
def Obligations.SetAmPmNeedsTwelveHourFormat : Prop :=
  ∀ (s : State) (v : Byte), Quiet s →
    let h := stored s 0x03
    ((h / 64 % 2 = 0 ∨ 1 < v.toNat ∨ v.toNat = h / 32 % 2) → EndsUnchanged (.setAmPm v) s) ∧
    (¬ (h / 64 % 2 = 0 ∨ 1 < v.toNat ∨ v.toNat = h / 32 % 2) →
      EndsWritten (.setAmPm v) s 0x03 (hourByte 1 (weighed (h % 32)) v.toNat))

/-- 48_host_interface.md R295: setMonth keeps bit 7 and setCentury keeps the digits; setCentury is rejected under MONTH
and for a code outside {0, 1}. -/
def Obligations.MonthSettersKeepTheSibling : Prop :=
  ∀ (s : State) (v : Byte), Quiet s →
    let b := stored s 0x06
    (v.toNat = weighed (b % 128) → EndsUnchanged (.setMonth v) s) ∧
    (v.toNat ≠ weighed (b % 128) → EndsWritten (.setMonth v) s 0x06 (monthByte v.toNat (b / 128))) ∧
    ((s.params.validityLoc = .month ∨ 1 < v.toNat ∨ v.toNat = b / 128) → EndsUnchanged (.setCentury v) s) ∧
    (¬ (s.params.validityLoc = .month ∨ 1 < v.toNat ∨ v.toNat = b / 128) →
      EndsWritten (.setCentury v) s 0x06 (b % 128 + 128 * v.toNat))

/-- 48_host_interface.md R290: a setter returns Changed, whose signal is 1, or Unchanged, whose signal is 0, and one that
returns Unchanged, a no-op or a rejection, performs no device write. -/
def Obligations.UnchangedMeansNoWrite : Prop :=
  ∀ (c : HostCall) (s t : State), isSetter c = true → runCall c s = .next t →
    (∃ r, t.ret = some r ∧ ((r = .changed ∧ returnSignal r = 1) ∨ (r = .unchanged ∧ returnSignal r = 0))) ∧
    (t.ret = some .unchanged → t.mem = s.mem ∧ writeCount t.trace = writeCount s.trace)

/-- 48_host_interface.md R296: after every setter of a calendar field that returns Changed, on a stopped device, the
validity flag reads true. -/
def Obligations.ChangedFieldsAreMarkedValid : Prop :=
  ∀ (c : HostCall) (s t : State), isSetter c = true → (∀ x, c ≠ .setTrickleChargerMode x) → Quiet s →
    runCall c s = .next t → t.ret = some .changed → flagValid t

/-- 48_host_interface.md R298, R299: setTrickleChargerMode accepts the seven codes only, writes the code verbatim unless
it is stored, and re-asserts nothing; a rejection exchanges nothing. -/
def Obligations.TrickleAcceptsTheClosedSet : Prop :=
  ∀ (s : State) (code : Byte), Quiet s →
    let codes : List Nat := [0x00, 0xA5, (match s.params.trickle250d with | .codeA9 => 0xA9 | .code29 => 0x29), 0xA6, 0xAA, 0xA7, 0xAB]
    (code.toNat ∉ codes → runCall (.setTrickleChargerMode code) s = .next { s with ret := some .unchanged }) ∧
    (code.toNat ∈ codes → code.toNat = stored s 0x0F → EndsUnchanged (.setTrickleChargerMode code) s) ∧
    (code.toNat ∈ codes → code.toNat ≠ stored s 0x0F →
      ∃ t, runCall (.setTrickleChargerMode code) s = .next t ∧ t.ret = some .changed ∧
        (∀ x, stored t x = if x = 0x0F then code.toNat else stored s x) ∧
        writeCount t.trace = writeCount s.trace + 1)

/-- 48_host_interface.md R297, 70_reset_and_hazards.md R378: getEpoch returns the epoch of the stored frame, read in the
frame's own format, for a frame whose month decodes into [1,12]; it writes nothing. -/
def Obligations.GetEpochConvertsTheStoredFrame : Prop :=
  ∀ (s : State) (tz : Byte), Quiet s →
    1 ≤ weighed (stored s 0x06 % 128) → weighed (stored s 0x06 % 128) ≤ 12 →
    let h := stored s 0x03
    let y := 2000 + weighed (stored s 0x07)
    let hour := if h / 64 % 2 = 0 then weighed (h % 64) else hour24 s.params.hour12Rule (weighed (h % 32)) (h / 32 % 2)
    let sum : Int := 86400 * ((daysBeforeYear y : Int) + daysBeforeMonth y (weighed (stored s 0x06 % 128)) + (weighed (stored s 0x05) - 1))
      + (3600 * hour + 60 * weighed (stored s 0x02) + weighed (stored s 0x01) : Nat) - 3600 * hours tz
    ∃ t e, runCall (.getEpoch tz) s = .next t ∧ t.ret = some (.value e) ∧ (e.toNat : Int) = sum % 2 ^ 32 ∧
      t.mem = s.mem ∧ writeCount t.trace = writeCount s.trace

/-- 48_host_interface.md R296, R297: setEpoch outside 2000-2099 local time is rejected with no exchange; inside, it writes
the frame of the one date whose day number is the local day: hundredths 0, the time, the hour in the stored format, the
date's weekday, day, month and year, and bit 7 of the month 1 under MONTH and as stored under STATUS; under STATUS the
status byte's bit 7 is cleared and its bits 6:0 are kept; no other register changes. Under CONTRACT, getEpoch with the
same timezone then reads the epoch back. -/
def Obligations.SetEpochThenGetEpoch : Prop :=
  ∀ (s : State) (e : Scalar) (tz : Byte), Quiet s →
    let loc : Int := e.toNat + 3600 * hours tz
    ((loc < 946684800 ∨ 4102444799 < loc) → runCall (.setEpoch e tz) s = .next { s with ret := some .unchanged }) ∧
    (946684800 ≤ loc → loc ≤ 4102444799 →
      ∃ t, runCall (.setEpoch e tz) s = .next t ∧ t.ret = some .changed ∧ flagValid t ∧
        (∃ y m d : Nat, 2000 ≤ y ∧ y ≤ 2099 ∧ 1 ≤ m ∧ m ≤ 12 ∧ 1 ≤ d ∧ d ≤ daysInMonth y m ∧
          daysBeforeYear y + daysBeforeMonth y m + (d - 1) = loc.toNat / 86400 ∧
          ∀ x, stored t x = frameRegister s loc.toNat y m d x) ∧
        writeCount t.trace = writeCount s.trace + 2 ∧
        (s.params.hour12Rule = .contract →
          ∃ u, runCall (.getEpoch tz) t = .next u ∧ u.ret = some (.value e)))
end

