-- ==== Sys2Proof/Tests/Slice0.lean ====
section
/-!
SUPPORT. Tests: words written out from the spec's encodings, the well-formedness smoke tests, one-step results from
spec/95_test_vectors.md, and a witness for the hypotheses of each statement.
-/

namespace Sys2Proof.Tests

open Sys2Proof Sys2Proof.Machine Sys2Proof.Claims

/-! ## Decoding: every row's word, from 30_encoding.md R101, R102 and 20_memory.md R71, R72 -/

/-- Command words `OP_SEL` (R101, R102). -/
theorem test_decode_bcd_and_fenc :
    decodeCmd 0b0001_0000 = .ok .bcdenc ∧
    decodeCmd 0b0010_0000 = .ok .bcddec ∧
    decodeCmd 0b0011_0000 = .ok .fencHs ∧
    decodeCmd 0b0011_0001 = .ok .fencSec ∧
    decodeCmd 0b0011_0010 = .ok .fencMin ∧
    decodeCmd 0b0011_0011 = .ok .fencHour ∧
    decodeCmd 0b0011_0100 = .ok .fencWday ∧
    decodeCmd 0b0011_0101 = .ok .fencDay ∧
    decodeCmd 0b0011_0110 = .ok .fencMonth ∧
    decodeCmd 0b0011_0111 = .ok .fencYear ∧
    decodeCmd 0b0011_1110 = .ok .fencStatus :=
  ⟨rfl, rfl, rfl, rfl, rfl, rfl, rfl, rfl, rfl, rfl, rfl⟩

/-- FDEC words (R101, R102). -/
theorem test_decode_fdec :
    decodeCmd 0b0100_0000 = .ok .fdecHs ∧
    decodeCmd 0b0100_0001 = .ok .fdecSec ∧
    decodeCmd 0b0100_0010 = .ok .fdecMin ∧
    decodeCmd 0b0100_0011 = .ok .fdecHour ∧
    decodeCmd 0b0100_0100 = .ok .fdecWday ∧
    decodeCmd 0b0100_0101 = .ok .fdecDay ∧
    decodeCmd 0b0100_0110 = .ok .fdecMonth ∧
    decodeCmd 0b0100_0111 = .ok .fdecYear ∧
    decodeCmd 0b0100_1110 = .ok .fdecStatus :=
  ⟨rfl, rfl, rfl, rfl, rfl, rfl, rfl, rfl, rfl⟩

/-- Whole-frame and epoch words (R101). -/
theorem test_decode_frame_and_epoch :
    decodeCmd 0b0101_0000 = .ok .frmenc ∧
    decodeCmd 0b0110_0000 = .ok .frmdec ∧
    decodeCmd 0b0111_0000 = .ok .leap ∧
    decodeCmd 0b1000_0000 = .ok .mdays ∧
    decodeCmd 0b1001_0000 = .ok .wday ∧
    decodeCmd 0b1010_0000 = .ok .h12to24 ∧
    decodeCmd 0b1011_0000 = .ok .h24to12 ∧
    decodeCmd 0b1100_0000 = .ok .toepoch ∧
    decodeCmd 0b1101_0000 = .ok .fromepoch :=
  ⟨rfl, rfl, rfl, rfl, rfl, rfl, rfl, rfl, rfl⟩

/-- Read address bytes `rw_addr` (R71, R72). -/
theorem test_decode_reads :
    decodeAddr 0b0_0000000 = .ok .devrdHundredths ∧
    decodeAddr 0b0_0000001 = .ok .devrdSecond ∧
    decodeAddr 0b0_0000010 = .ok .devrdMinute ∧
    decodeAddr 0b0_0000011 = .ok .devrdHour ∧
    decodeAddr 0b0_0000100 = .ok .devrdWeekday ∧
    decodeAddr 0b0_0000101 = .ok .devrdDay ∧
    decodeAddr 0b0_0000110 = .ok .devrdMonth ∧
    decodeAddr 0b0_0000111 = .ok .devrdYear ∧
    decodeAddr 0b0_0001110 = .ok .devrdStatus ∧
    decodeAddr 0b0_0001111 = .ok .devrdTrickle :=
  ⟨rfl, rfl, rfl, rfl, rfl, rfl, rfl, rfl, rfl, rfl⟩

/-- Write address bytes `rw_addr` (R71, R72). -/
theorem test_decode_writes :
    decodeAddr 0b1_0000000 = .ok .devwrHundredths ∧
    decodeAddr 0b1_0000001 = .ok .devwrSecond ∧
    decodeAddr 0b1_0000010 = .ok .devwrMinute ∧
    decodeAddr 0b1_0000011 = .ok .devwrHour ∧
    decodeAddr 0b1_0000100 = .ok .devwrWeekday ∧
    decodeAddr 0b1_0000101 = .ok .devwrDay ∧
    decodeAddr 0b1_0000110 = .ok .devwrMonth ∧
    decodeAddr 0b1_0000111 = .ok .devwrYear ∧
    decodeAddr 0b1_0001110 = .ok .devwrStatus ∧
    decodeAddr 0b1_0001111 = .ok .devwrTrickle :=
  ⟨rfl, rfl, rfl, rfl, rfl, rfl, rfl, rfl, rfl, rfl⟩

/-- Rejected by name (30_encoding.md R107; 95_test_vectors.md 2.9). -/
theorem test_decode_rejects :
    decodeCmd 0x00 = .error (.illegalOp 0x0) ∧ decodeCmd 0xE0 = .error (.illegalOp 0xE) ∧
    decodeCmd 0xF0 = .error (.illegalOp 0xF) ∧ decodeCmd 0x11 = .error (.selNotZero 1 1) ∧
    decodeCmd 0x5F = .error (.selNotZero 5 15) ∧ decodeCmd 0x38 = .error (.selUndefined 3 8) ∧
    decodeCmd 0x3F = .error (.selUndefined 3 15) ∧ decodeCmd 0x48 = .error (.selUndefined 4 8) ∧
    decodeAddr 0x08 = .error (.unnamedRegister 0x08) ∧ decodeAddr 0x90 = .error (.unnamedRegister 0x10) ∧
    decode .cmd [] = .error .noByte :=
  ⟨rfl, rfl, rfl, rfl, rfl, rfl, rfl, rfl, rfl, rfl, rfl⟩

/-- The table's word 0x80 is two rows; the command port takes it (log 3). -/
theorem test_table_word_80 : decodeTableWord 8 0x80 = some .mdays ∧ decodeTableWord 8 0x86 = some .devwrMonth := ⟨rfl, rfl⟩

/-! ## Well-formedness smoke tests: each check refuses an ill-formed term -/

/-- FENC.STATUS and FDEC.STATUS under MONTH (30_encoding.md R107 clause 4). -/
theorem test_wf_refuses_status_under_month :
    Instr.wf Params.default .fencStatus = false ∧ Instr.wf Params.default .fdecStatus = false := ⟨rfl, rfl⟩

/-- A literal too wide for its port (10_state.md R33). -/
theorem test_wf_refuses_wide_literal :
    portsFit [(.fmt, .lit 2)] = false ∧ portsFit [(.b, .lit 256)] = false ∧ dataFit [.lit 256] = false ∧
    portsFit [(.b, .lit 255)] = true := by decide

/-- A port the operation reads is not written (30_encoding.md R109). -/
theorem test_wf_refuses_missing_port :
    Line.wf (.core none 0x80 [(.a, .lit 2024)]) = false ∧
    Line.wf (.core none 0x80 [(.a, .lit 2024), (.b, .lit 2)]) = true := by decide

/-- A burst that touches an unnamed register, or moves no byte (48_host_interface.md R284). -/
theorem test_wf_refuses_unadmitted_burst :
    Line.wf (.rd none 0x07 2) = false ∧ Line.wf (.rd none 0x00 0) = false ∧ Line.wf (.wr 0x0F [.lit 0, .lit 0]) = false ∧
    Line.wf (.rd none 0x0E 2) = true := by decide

/-! ## One step of each CORE operation (95_test_vectors.md section 2) -/

/-- A state at power-on with these parameters and one CORE line to run. -/
def bench (loc : ValidityLoc) (rule : Hour12Rule) (c : Byte) (ports : List (InPort × Operand)) : State :=
  { State.reset with
    params := { Params.default with validityLoc := loc, hour12Rule := rule }
    script := [.core none c ports] }

/-- After one step the output ports listed hold the numbers listed. -/
def answers (loc : ValidityLoc) (rule : Hour12Rule) (c : Byte) (ports : List (InPort × Operand))
    (outs : List (OutPort × Nat)) : Bool :=
  match step (bench loc rule c ports) with
  | .next t => outs.all fun pn => outPort t.out pn.1 == pn.2
  | .fault _ => false
  | .refused _ => false

/-- 95_test_vectors.md 2.1. -/
theorem test_bcdenc_over_99 :
    answers .month .contract 0x10 [(.a, .lit 123)]
      [(.y, 195), (.rs, 0), (.stWe, 0)] = true := by
  decide +kernel

/-- 95_test_vectors.md 2.1. -/
theorem test_bcdenc_drops_high :
    answers .month .contract 0x10 [(.a, .lit 355)]
      [(.y, 153), (.rs, 0), (.stWe, 0)] = true := by
  decide +kernel

/-- 95_test_vectors.md 2.1. -/
theorem test_bcddec_garbage :
    answers .month .contract 0x20 [(.a, .lit 255)]
      [(.y, 165)] = true := by
  decide +kernel

/-- 95_test_vectors.md 2.1. -/
theorem test_bcddec_low_byte :
    answers .month .contract 0x20 [(.a, .lit 4660)]
      [(.y, 34)] = true := by
  decide +kernel

/-- 95_test_vectors.md 2.2. -/
theorem test_fencHs_clamps :
    answers .month .contract 0x30 [(.calHs, .lit 255)]
      [(.y, 153), (.rs, 0), (.stWe, 0)] = true := by
  decide +kernel

/-- 95_test_vectors.md 2.2. -/
theorem test_fencSec_clamps :
    answers .month .contract 0x31 [(.calSec, .lit 60)]
      [(.y, 89), (.rs, 0), (.stWe, 0)] = true := by
  decide +kernel

/-- 95_test_vectors.md 2.2. -/
theorem test_fencMin_59 :
    answers .month .contract 0x32 [(.calMin, .lit 59)]
      [(.y, 89), (.rs, 0), (.stWe, 0)] = true := by
  decide +kernel

/-- 95_test_vectors.md 2.2. -/
theorem test_fencHour_h24_ignores_ampm :
    answers .month .contract 0x33 [(.fmt, .lit 0), (.calHr, .lit 13), (.calAmpm, .lit 1)]
      [(.y, 19), (.rs, 0), (.stWe, 0)] = true := by
  decide +kernel

/-- 95_test_vectors.md 2.2. -/
theorem test_fencHour_h12_pm :
    answers .month .contract 0x33 [(.fmt, .lit 1), (.calHr, .lit 12), (.calAmpm, .lit 1)]
      [(.y, 114), (.rs, 0), (.stWe, 0)] = true := by
  decide +kernel

/-- 95_test_vectors.md 2.2. -/
theorem test_fencWday_zero :
    answers .month .contract 0x34 [(.calWd, .lit 0)]
      [(.y, 1), (.rs, 0), (.stWe, 0)] = true := by
  decide +kernel

/-- 95_test_vectors.md 2.2. -/
theorem test_fencDay_clamps :
    answers .month .contract 0x35 [(.calDay, .lit 32)]
      [(.y, 49), (.rs, 0), (.stWe, 0)] = true := by
  decide +kernel

/-- 95_test_vectors.md 2.2. -/
theorem test_fencMonth_cov :
    answers .month .contract 0x36 [(.calMon, .lit 13), (.calCov, .lit 1)]
      [(.y, 146), (.rs, 0), (.stWe, 0)] = true := by
  decide +kernel

/-- 95_test_vectors.md 2.2. -/
theorem test_fencYear_clamps :
    answers .month .contract 0x37 [(.calYr, .lit 100)]
      [(.y, 153), (.rs, 0), (.stWe, 0)] = true := by
  decide +kernel

/-- 95_test_vectors.md 2.2. -/
theorem test_fencStatus_keeps_low_bits :
    answers .status .contract 0x3E [(.valid, .lit 0), (.stIn, .lit 37)]
      [(.y, 165), (.rs, 0), (.stWe, 0)] = true := by
  decide +kernel

/-- 95_test_vectors.md 2.3. -/
theorem test_fdecHs_garbage :
    answers .month .contract 0x40 [(.a, .lit 255)]
      [(.y, 165)] = true := by
  decide +kernel

/-- 95_test_vectors.md 2.3. -/
theorem test_fdecSec_bit7 :
    answers .month .contract 0x41 [(.a, .lit 128)]
      [(.y, 80)] = true := by
  decide +kernel

/-- 95_test_vectors.md 2.3. -/
theorem test_fdecMin_garbage :
    answers .month .contract 0x42 [(.a, .lit 90)]
      [(.y, 60)] = true := by
  decide +kernel

/-- 95_test_vectors.md 2.3. -/
theorem test_fdecHour_h24_unclamped :
    answers .month .contract 0x43 [(.a, .lit 63)]
      [(.y, 45), (.fmtOut, 0), (.ampmOut, 0)] = true := by
  decide +kernel

/-- 95_test_vectors.md 2.3. -/
theorem test_fdecHour_h12_bit7 :
    answers .month .contract 0x43 [(.a, .lit 255)]
      [(.y, 25), (.fmtOut, 1), (.ampmOut, 1)] = true := by
  decide +kernel

/-- 95_test_vectors.md 2.3. -/
theorem test_fdecWday_8 :
    answers .month .contract 0x44 [(.a, .lit 8)]
      [(.y, 8)] = true := by
  decide +kernel

/-- 95_test_vectors.md 2.3. -/
theorem test_fdecDay_29 :
    answers .month .contract 0x45 [(.a, .lit 41)]
      [(.y, 29)] = true := by
  decide +kernel

/-- 95_test_vectors.md 2.3. -/
theorem test_fdecMonth_valid :
    answers .month .contract 0x46 [(.a, .lit 146)]
      [(.y, 12), (.covOut, 1), (.validOut, 1)] = true := by
  decide +kernel

/-- 95_test_vectors.md 2.3. -/
theorem test_fdecYear_A0 :
    answers .month .contract 0x47 [(.a, .lit 160)]
      [(.y, 100)] = true := by
  decide +kernel

/-- 95_test_vectors.md 2.3. -/
theorem test_fdecStatus_stopped :
    answers .status .contract 0x4E [(.a, .lit 128)]
      [(.validOut, 0)] = true := by
  decide +kernel

/-- 95_test_vectors.md 2.3. -/
theorem test_fdecStatus_valid :
    answers .status .contract 0x4E [(.a, .lit 127)]
      [(.validOut, 1)] = true := by
  decide +kernel

/-- 95_test_vectors.md 2.4 E4. -/
theorem test_frmenc_clamps_each_field :
    answers .month .contract 0x50 [(.calHs, .lit 150), (.calSec, .lit 75), (.calMin, .lit 60), (.calHr, .lit 0), (.calWd, .lit 9), (.calDay, .lit 0), (.calMon, .lit 13), (.calYr, .lit 255), (.calAmpm, .lit 0), (.calCov, .lit 1), (.fmt, .lit 1), (.valid, .lit 1), (.stIn, .lit 0)]
      [(.raw 0, 153), (.raw 1, 89), (.raw 2, 89), (.raw 3, 65), (.raw 4, 7), (.raw 5, 1), (.raw 6, 146), (.raw 7, 153), (.stOut, 0), (.stWe, 0), (.rs, 0)] = true := by
  decide +kernel

/-- 95_test_vectors.md 2.4 E6. -/
theorem test_frmenc_status_byte :
    answers .status .contract 0x50 [(.calHs, .lit 0), (.calSec, .lit 0), (.calMin, .lit 0), (.calHr, .lit 12), (.calWd, .lit 7), (.calDay, .lit 1), (.calMon, .lit 1), (.calYr, .lit 0), (.calAmpm, .lit 0), (.calCov, .lit 1), (.fmt, .lit 1), (.valid, .lit 0), (.stIn, .lit 37)]
      [(.raw 0, 0), (.raw 1, 0), (.raw 2, 0), (.raw 3, 82), (.raw 4, 7), (.raw 5, 1), (.raw 6, 129), (.raw 7, 0), (.stOut, 165), (.stWe, 1), (.rs, 0)] = true := by
  decide +kernel

/-- 95_test_vectors.md 2.4 D3. -/
theorem test_frmdec_garbage :
    answers .month .contract 0x60 [(.raw 0, .lit 255), (.raw 1, .lit 255), (.raw 2, .lit 255), (.raw 3, .lit 255), (.raw 4, .lit 255), (.raw 5, .lit 255), (.raw 6, .lit 255), (.raw 7, .lit 255)]
      [(.calHs, 165), (.calSec, 165), (.calMin, 165), (.calHr, 25), (.calWd, 165), (.calDay, 165), (.calMon, 85), (.calYr, 165), (.fmtOut, 1), (.ampmOut, 1), (.covOut, 1), (.validOut, 1)] = true := by
  decide +kernel

/-- 95_test_vectors.md 2.4 D5. -/
theorem test_frmdec_status_validity :
    answers .status .contract 0x60 [(.raw 0, .lit 18), (.raw 1, .lit 52), (.raw 2, .lit 86), (.raw 3, .lit 64), (.raw 4, .lit 3), (.raw 5, .lit 9), (.raw 6, .lit 134), (.raw 7, .lit 49), (.stIn, .lit 128)]
      [(.calHs, 12), (.calSec, 34), (.calMin, 56), (.calHr, 0), (.calWd, 3), (.calDay, 9), (.calMon, 6), (.calYr, 31), (.fmtOut, 1), (.ampmOut, 0), (.covOut, 1), (.validOut, 0)] = true := by
  decide +kernel

/-- 95_test_vectors.md 2.8. -/
theorem test_leap_2100 :
    answers .month .contract 0x70 [(.a, .lit 2100)]
      [(.y, 0)] = true := by
  decide +kernel

/-- 95_test_vectors.md 2.8. -/
theorem test_leap_low_half :
    answers .month .contract 0x70 [(.a, .lit 67536)]
      [(.y, 1)] = true := by
  decide +kernel

/-- 95_test_vectors.md 2.8. -/
theorem test_mdays_leap_february :
    answers .month .contract 0x80 [(.a, .lit 2024), (.b, .lit 2)]
      [(.y, 29)] = true := by
  decide +kernel

/-- 95_test_vectors.md 2.8. -/
theorem test_mdays_2100_february :
    answers .month .contract 0x80 [(.a, .lit 2100), (.b, .lit 2)]
      [(.y, 28)] = true := by
  decide +kernel

/-- 95_test_vectors.md 2.8. -/
theorem test_wday_epoch :
    answers .month .contract 0x90 [(.a, .lit 0)]
      [(.y, 5)] = true := by
  decide +kernel

/-- 95_test_vectors.md 2.8. -/
theorem test_wday_top :
    answers .month .contract 0x90 [(.a, .lit 4294967295)]
      [(.y, 1)] = true := by
  decide +kernel

/-- 95_test_vectors.md 2.5. -/
theorem test_h12to24_midnight :
    answers .month .contract 0xA0 [(.a, .lit 12), (.b, .lit 0)]
      [(.y, 0)] = true := by
  decide +kernel

/-- 95_test_vectors.md 2.5. -/
theorem test_h12to24_literal :
    answers .month .literal 0xA0 [(.a, .lit 12), (.b, .lit 1)]
      [(.y, 24)] = true := by
  decide +kernel

/-- 95_test_vectors.md 2.5. -/
theorem test_h24to12_noon :
    answers .month .contract 0xB0 [(.a, .lit 12)]
      [(.y, 12), (.ampmOut, 1)] = true := by
  decide +kernel

/-- 95_test_vectors.md 2.5. -/
theorem test_h24to12_23 :
    answers .month .contract 0xB0 [(.a, .lit 23)]
      [(.y, 11), (.ampmOut, 1)] = true := by
  decide +kernel

/-- 95_test_vectors.md 2.6 T13. -/
theorem test_toepoch_T13 :
    answers .month .contract 0xC0 [(.calSec, .lit 30), (.calMin, .lit 45), (.calHr, .lit 12), (.calDay, .lit 15), (.calMon, .lit 6), (.calYr, .lit 24), (.calAmpm, .lit 1), (.calHs, .lit 0), (.calWd, .lit 0), (.calCov, .lit 0), (.fmt, .lit 1), (.tz, .lit 253)]
      [(.y, 1718466330)] = true := by
  decide +kernel

/-- 95_test_vectors.md 2.6 T22. -/
theorem test_toepoch_wraps_T22 :
    answers .month .contract 0xC0 [(.calSec, .lit 0), (.calMin, .lit 0), (.calHr, .lit 0), (.calDay, .lit 1), (.calMon, .lit 1), (.calYr, .lit 255), (.calAmpm, .lit 0), (.calHs, .lit 0), (.calWd, .lit 0), (.calCov, .lit 0), (.fmt, .lit 0), (.tz, .lit 0)]
      [(.y, 403787008)] = true := by
  decide +kernel

/-- 95_test_vectors.md 2.7 F14. -/
theorem test_fromepoch_F14 :
    answers .month .contract 0xD0 [(.a, .lit 1718466330), (.fmt, .lit 1), (.tz, .lit 253)]
      [(.calSec, 30), (.calMin, 45), (.calHr, 12), (.ampmOut, 1), (.calWd, 7), (.calDay, 15), (.calMon, 6), (.calYr, 24)] = true := by
  decide +kernel

/-- 95_test_vectors.md 2.7 F19. -/
theorem test_fromepoch_F19 :
    answers .month .contract 0xD0 [(.a, .lit 4294967295), (.fmt, .lit 0), (.tz, .lit 0)]
      [(.calSec, 15), (.calMin, 28), (.calHr, 6), (.ampmOut, 0), (.calWd, 1), (.calDay, 7), (.calMon, 2)] = true := by
  decide +kernel

/-- An illegal word answers ILLEGAL with no status write (95_test_vectors.md 2.9). -/
theorem test_illegal_word :
    answers .month .contract 0x3E [] [(.rs, 1), (.stWe, 0)] = true ∧
    answers .status .contract 0x5F [] [(.rs, 1), (.stWe, 0)] = true := by
  decide +kernel

/-- FROMEPOCH before 1970 drives nothing (95_test_vectors.md 2.7 F3). -/
theorem test_fromepoch_before_1970 : fromEpoch 0 0 (-1) = none := by decide

/-! ## Device transactions and host operations on a stopped device (95_test_vectors.md section 3) -/

/-- A stopped, powered device with this image, and one line to run. -/
def device (loc : ValidityLoc) (m : Memory) (l : Line) : State :=
  { State.reset with
    params := { Params.default with validityLoc := loc }
    deviceStopped := true
    mem := m
    script := [l] }

/-- After one step: the call's return, and the bytes of these registers. -/
def leaves (s : State) (ret : Option HostReturn) (regs : List (Nat × Byte)) : Bool :=
  match step s with
  | .next t => t.ret == ret && regs.all fun r => Memory.read t.mem r.1 == r.2
  | .fault _ => false
  | .refused _ => false

/-- After one step: the bytes read. -/
def reads (s : State) (bs : List Byte) : Bool :=
  match step s with
  | .next t => t.rd == bs
  | .fault _ => false
  | .refused _ => false

/-- The first byte of each exchange (the address byte) and its length, oldest first. -/
def exchanges (s : State) : List (List Byte) :=
  match step s with
  | .next t => t.trace.reverse
  | .fault _ => []
  | .refused _ => []

/-- The frame of P1: 2024-06-15, Saturday, 12:45:30 PM. -/
def frameP1 : Memory :=
  [(0, 0x00), (1, 0x30), (2, 0x45), (3, 0x72), (4, 0x07), (5, 0x15), (6, 0x86), (7, 0x24)]

/-- A frame read is one burst of eight in address order (P1 step 1). -/
theorem test_read_frame :
    reads (device .month frameP1 (.rd none 0x00 8)) [0x00, 0x30, 0x45, 0x72, 0x07, 0x15, 0x86, 0x24] = true := by
  decide +kernel

/-- A pair at the top (48_host_interface.md R284). -/
theorem test_read_top_pair : reads (device .month [(14, 0x12), (15, 0xA9)] (.rd none 0x0E 2)) [0x12, 0xA9] = true := by
  decide +kernel

/-- A two-byte write from 0x06 stores both bytes and is one exchange from address byte 0x86. -/
theorem test_write_pair :
    leaves (device .month frameP1 (.wr 0x06 [.lit 0x11, .lit 0x22])) none [(5, 0x15), (6, 0x11), (7, 0x22)] = true ∧
    exchanges (device .month frameP1 (.wr 0x06 [.lit 0x11, .lit 0x22])) = [[0x86, 0x11, 0x22]] := by
  decide +kernel

/-- P1: getEpoch(tz = -3). -/
theorem test_P1_getEpoch :
    leaves (device .month frameP1 (.call (.getEpoch 0xFD))) (some (.value 1718466330)) [(3, 0x72)] = true := by
  decide +kernel

/-- P2: setEpoch(1709208000, tz = 0). -/
theorem test_P2_setEpoch :
    leaves (device .month
        [(0, 0x11), (1, 0x22), (2, 0x33), (3, 0x08), (4, 0x01), (5, 0x01), (6, 0x03), (7, 0x99)]
        (.call (.setEpoch 1709208000 0)))
      (some .changed)
      [(0, 0x00), (1, 0x00), (2, 0x00), (3, 0x12), (4, 0x05), (5, 0x29), (6, 0x82), (7, 0x24)] = true := by
  decide +kernel

/-- P3: setHour(12) in H12 keeps PM and sets the flag. -/
theorem test_P3_setHour :
    leaves (device .month [(3, 0x67), (6, 0x02)] (.call (.setHour 12))) (some .changed) [(3, 0x72), (6, 0x82)] = true := by
  decide +kernel

/-- P4 (a): setAmPm in H24 is rejected after one read. -/
theorem test_P4a_setAmPm :
    leaves (device .month [(3, 0x15)] (.call (.setAmPm 1))) (some .unchanged) [(3, 0x15)] = true ∧
    (exchanges (device .month [(3, 0x15)] (.call (.setAmPm 1)))).length = 1 := by
  decide +kernel

/-- P4 (b): setSecond of the stored value writes nothing. -/
theorem test_P4b_setSecond_noop :
    leaves (device .month [(1, 0x30)] (.call (.setSecond 30))) (some .unchanged) [(1, 0x30)] = true ∧
    (exchanges (device .month [(1, 0x30)] (.call (.setSecond 30)))).length = 1 := by
  decide +kernel

/-- P4 (c): setSecond(75) clamps, writes, and sets the flag: two reads and two writes. -/
theorem test_P4c_setSecond_clamps :
    leaves (device .month [(1, 0x30), (6, 0x86)] (.call (.setSecond 75))) (some .changed) [(1, 0x59), (6, 0x86)] = true ∧
    ((exchanges (device .month [(1, 0x30), (6, 0x86)] (.call (.setSecond 75)))).map (·.headD 0)) =
      [0x01, 0x81, 0x06, 0x86] := by
  decide +kernel

/-- P4 (d): a trickle code outside the set is rejected with no exchange. -/
theorem test_P4d_trickle_rejected :
    leaves (device .month [(15, 0x00)] (.call (.setTrickleChargerMode 0x29))) (some .unchanged) [(15, 0x00)] = true ∧
    exchanges (device .month [(15, 0x00)] (.call (.setTrickleChargerMode 0x29))) = [] := by
  decide +kernel

/-- P4 (e): a trickle code is written verbatim. -/
theorem test_P4e_trickle_written :
    leaves (device .month [(15, 0x00)] (.call (.setTrickleChargerMode 0xA9))) (some .changed) [(15, 0xA9)] = true := by
  decide +kernel

/-- P5: setEpoch(946684800, tz = 0) under STATUS: H12 kept, century bit kept, OSF cleared. -/
theorem test_P5_setEpoch_status :
    leaves (device .status
        [(0, 0x12), (1, 0x34), (2, 0x56), (3, 0x40), (4, 0x03), (5, 0x09), (6, 0x86), (7, 0x31), (14, 0x80)]
        (.call (.setEpoch 946684800 0)))
      (some .changed)
      [(0, 0x00), (1, 0x00), (2, 0x00), (3, 0x52), (4, 0x07), (5, 0x01), (6, 0x81), (7, 0x00), (14, 0x00)] = true := by
  decide +kernel

/-- setFormat flips bit 6 only (91_not_in_source.md N6: 0x15 becomes 0x55). -/
theorem test_setFormat :
    leaves (device .month [(3, 0x15), (6, 0x06)] (.call (.setFormat 1))) (some .changed) [(3, 0x55), (6, 0x86)] = true := by
  decide +kernel

/-- A later line uses an earlier line's port (30_encoding.md R109): BCDDEC of a bound `Y`. -/
theorem test_bound_operand :
    (match runLine (.core (some 7) 0x10 [(.a, .lit 59)]) State.reset with
      | .next t =>
        (match runLine (.core none 0x20 [(.a, .port 7 .y)]) t with
          | .next u => u.out.y == 59
          | .fault _ => false
          | .refused _ => false)
      | .fault _ => false
      | .refused _ => false) = true := by
  decide +kernel

/-- LEAP2 of a bound year (30_encoding.md R110): FDEC.YEAR of 0x24, then `LEAP2 A=d.Y`; 2024 is a leap year. -/
theorem test_pseudo_bound :
    (match runLine (.core (some 7) 0x47 [(.a, .lit 0x24)]) State.reset with
      | .next t =>
        (match runLine (pseudoLeap2 none (.port 7 .y)) t with
          | .next u => u.out.y == 1
          | .fault _ => false
          | .refused _ => false)
      | .fault _ => false
      | .refused _ => false) = true := by
  decide +kernel

/-- An unbound name stops the line. -/
theorem test_unbound_name : runLine (.core none 0x20 [(.a, .port 7 .y)]) State.reset = .fault .unboundName := rfl

/-- A table word is the next step's instruction. -/
theorem test_withFetchWord :
    (match step (State.reset.withFetchWord 8 0x90) with
      | .next t => t.out.y == 5
      | .fault _ => false
      | .refused _ => false) = true ∧
    (match step (State.reset.withFetchWord 8 0x8E) with
      | .next t => Memory.read t.mem 0x0E == 0
      | .fault _ => false
      | .refused _ => false) = true := by
  decide +kernel

/-- With the transport down the host is stuck. -/
theorem test_stuck : memRead 0x03 1 { State.reset with linkUp := false } = .fault .exchangeIncomplete := rfl

/-! ## Witnesses: concrete states and operands that meet each statement's hypotheses together -/

/-- A power-on state whose next line is given. -/
def withLine (l : Line) : State := { State.reset with script := [l] }

/-- A power-on state under STATUS. -/
def statusState : State := { State.reset with params := { Params.default with validityLoc := .status } }

/-- A stopped device with a working transport. -/
def quietState (loc : ValidityLoc) (m : Memory) : State :=
  { State.reset with params := { Params.default with validityLoc := loc }, deviceStopped := true, mem := m }

/-- A calendar value of the contract: 2024-02-29, Thursday, 12:00:00. -/
def leapDay (hr : Byte) (ampm : Bit) : CalendarValue :=
  { hs := 99, sec := 59, min := 0, hr := hr, wd := 5, day := 29, mon := 2, yr := 24, ampm := ampm, cov := 1 }

/-- The inputs of a power-on state with this calendar value, format and timezone. -/
def calState (c : CalendarValue) (fmt : Bit) (tz : Byte) : State :=
  { State.reset with inp := { State.resetInputs with cal := c, fmt := fmt, tz := tz } }

theorem witness_StepRunsTheDecodedInstruction_core :
    (withLine (.core (some 1) 0x34 [(.calWd, .lit 8)])).script = .core (some 1) 0x34 [(.calWd, .lit 8)] :: [] ∧
    (∃ inp, applyPorts [] [(.calWd, .lit 8)] State.resetInputs = some inp) ∧ decodeByte .cmd 0x34 = .ok .fencWday :=
  ⟨rfl, ⟨_, rfl⟩, rfl⟩

theorem witness_StepRunsTheDecodedInstruction_read :
    (withLine (.rd (some 1) 0x07 1)).script = .rd (some 1) 0x07 1 :: [] ∧
    decodeByte .addr (addrByte false 0x07) = .ok .devrdYear := ⟨rfl, rfl⟩

theorem witness_StepRunsTheDecodedInstruction_write :
    (withLine (.wr 0x0F [.lit 0xA5])).script = .wr 0x0F [.lit 0xA5] :: [] ∧
    dataBytes (withLine (.wr 0x0F [.lit 0xA5])).binds [.lit 0xA5] = some [0xA5] ∧
    decodeByte .addr (addrByte true 0x0F) = .ok .devwrTrickle := ⟨rfl, rfl, rfl⟩

/-- An illegal word, an unnamed address, an unbound name, a host call, and no line left. -/
theorem witness_StepRunsTheDecodedInstruction_rest :
    (∃ inp, applyPorts [] [] State.resetInputs = some inp) ∧ (∀ i, decodeByte .cmd 0xE0 ≠ .ok i) ∧
    applyPorts [] [(.a, .port 1 .y)] State.resetInputs = none ∧ (∀ i, decodeByte .addr (addrByte false 0x08) ≠ .ok i) ∧
    (∀ i, decodeByte .addr (addrByte true 0x10) ≠ .ok i) ∧ dataBytes [] [.lit 0] = some [0] ∧
    dataBytes [] [.byte 1 0] = none ∧ (withLine (.call .getFormat)).script = [.call .getFormat] ∧
    State.reset.script = [] :=
  ⟨⟨_, rfl⟩, nofun, rfl, nofun, nofun, rfl, rfl, rfl, rfl⟩

theorem witness_NamedResultsFeedLaterLines :
    (∃ t, step (withLine (.core (some 3) 0x90 [(.a, .lit 0)])) = .next t) ∧
    (∃ t, step (withLine (.rd (some 3) 0x00 8)) = .next t) := ⟨⟨_, rfl⟩, ⟨_, rfl⟩⟩

/-- A byte and a month at the ends of their ranges, and a bound value for the year: `MDAYS2 A=d.CAL_OUT.YR, B=12` after
`d = FRMDEC`. -/
theorem witness_PseudoInstructionsExpand :
    operandValue [] (.lit 255) = some 255 ∧ operandValue [] (.lit 12) = some 12 ∧
    operandValue [(4, .outputs { unspecifiedOutputs 0 with cal := { (unspecifiedOutputs 0).cal with yr := 24 } })]
      (.port 4 .calYr) = some 24 := ⟨rfl, rfl, rfl⟩

theorem witness_EveryStepKeepsTheSystemInvariant :
    SystemInv (withLine (.call (.setSecond 75))) ∧ ∃ t, step (withLine (.wr 0x00 [.lit 1, .lit 2])) = .next t :=
  ⟨⟨rfl, rfl, rfl, rfl⟩, ⟨_, rfl⟩⟩

theorem witness_EveryStepKeepsTheSystemInvariant_write :
    SystemInv (withLine (.wr 0x00 [.lit 1, .lit 2])) := ⟨rfl, rfl, rfl, rfl⟩

theorem witness_NoStepChangesAParameter : ∃ t, step (withLine (.core none 0x00 [])) = .next t := ⟨_, rfl⟩

theorem witness_WellFormedLinesComplete :
    Line.wf (.core none 0x10 [(.a, .lit 5)]) = true ∧ lineBound State.reset.binds (.core none 0x10 [(.a, .lit 5)]) = true ∧
    Line.wf (.rd none 0x07 1) = true ∧ Line.wf (.wr 0x0E [.lit 0, .lit 255]) = true ∧
    lineBound State.reset.binds (.wr 0x0E [.lit 0, .lit 255]) = true ∧
    Line.wf (.call .getCentury) = true ∧ statusState.params.validityLoc = .status ∧ statusState.linkUp = true := by
  decide

theorem witness_TransactionsHoldNothing :
    ∃ s s' : State, s ≠ s' ∧ s.inp = s'.inp ∧ s.params = s'.params ∧ s.draws = s'.draws ∧ ∃ t, coreTransaction s = .next t :=
  ⟨State.reset, { State.reset with mem := [(0, 1)] }, fun h => by simpa [State.reset] using congrArg State.mem h,
    rfl, rfl, rfl, ⟨_, rfl⟩⟩

theorem witness_UnreadPortsAreIgnored :
    Instr.channel .fencSec = .cmd ∧ (∃ t, exec .fencSec State.reset = .next t) ∧
    (∀ p ∈ Instr.reads .fencSec, getPort { State.resetInputs with a := 7 } p = getPort State.resetInputs p) ∧
    ({ State.resetInputs with a := 7 } : Inputs) ≠ State.resetInputs := by
  exact ⟨rfl, ⟨_, rfl⟩, by decide, by decide⟩

theorem witness_OperandBitsAboveTheSliceAreIgnored :
    (∃ t, exec .bcdenc State.reset = .next t) ∧ (0x100 : Scalar).toNat % 256 = lowByte State.reset ∧
    (∃ t, exec .leap State.reset = .next t) ∧ (0x10000 : Scalar).toNat % 65536 = lowHalf State.reset ∧
    (∃ t, exec .h12to24 State.reset = .next t) ∧ (2 : Byte).toNat % 2 = State.reset.inp.b.toNat % 2 :=
  ⟨⟨_, rfl⟩, rfl, ⟨_, rfl⟩, rfl, ⟨_, rfl⟩, rfl⟩

theorem witness_OnlyTheListedPortsAreDriven :
    Instr.channel .frmenc = .cmd ∧ Instr.wf State.reset.params .frmenc = true ∧
    Instr.channel .fdecStatus = .cmd ∧ Instr.wf statusState.params .fdecStatus = true := ⟨rfl, rfl, rfl, rfl⟩

theorem witness_IllegalResponseHasNoOtherEffect :
    legalWord State.reset.params State.reset.inp.cmd = false ∧ legalWord Params.default 0x3E = false := ⟨rfl, rfl⟩

theorem witness_OnlySelZero :
    ∃ s : State, s.inp.cmd.toNat / 16 = 0xD ∧ s.inp.cmd.toNat % 16 ≠ 0 :=
  ⟨{ State.reset with inp := { State.resetInputs with cmd := 0xD1 } }, by decide⟩

theorem witness_DecodeThenEncodeOnValidBcd : ∃ s : State, lowByte s = 0x99 ∧ lowByte s / 16 ≤ 9 ∧ lowByte s % 16 ≤ 9 :=
  ⟨{ State.reset with inp := { State.resetInputs with a := 0x199 } }, by decide⟩

theorem witness_validity_locations :
    statusState.params.validityLoc = .status ∧ State.reset.params.validityLoc = .month := ⟨rfl, rfl⟩

theorem witness_FrameLanesAreTheFieldOperations :
    (∃ t, exec .frmenc (calState (leapDay 12 1) 1 0) = .next t) ∧ (∃ t, exec .frmdec State.reset = .next t) ∧
    ∀ p ∈ lanePorts 4, getPort { State.resetInputs with cal := leapDay 12 1 } p =
      getPort { State.resetInputs with cal := leapDay 7 0 } p := by
  exact ⟨⟨_, rfl⟩, ⟨_, rfl⟩, by decide⟩

theorem witness_FrameRoundTrip :
    inDomain (calState (leapDay 12 1) 1 0).inp.cal 1 ∧ inDomain (calState (leapDay 23 0) 0 0).inp.cal 0 := by
  unfold inDomain; decide

theorem witness_MdaysGivesTheMonthLength :
    ∃ s s' : State, (1 ≤ s.inp.b.toNat ∧ s.inp.b.toNat ≤ 12) ∧ ¬ (1 ≤ s'.inp.b.toNat ∧ s'.inp.b.toNat ≤ 12) :=
  ⟨{ State.reset with inp := { State.resetInputs with b := 12 } }, { State.reset with inp := { State.resetInputs with b := 13 } },
    by decide, by decide⟩

theorem witness_EpochRoundTripContract :
    contractValue (leapDay 12 1) 1 ∧ contractValue (leapDay 0 0) 0 ∧ hours 0xF4 = -12 ∧ hours 0x0C = 12 := by
  unfold contractValue; decide

theorem witness_ToepochRanges :
    contractValue (leapDay 12 0) 1 ∧ 1 ≤ (leapDay 12 0).mon.toNat ∧ (leapDay 12 0).mon.toNat ≤ 12 ∧
    (leapDay 12 0).yr.toNat ≤ 99 := by
  unfold contractValue; decide

theorem witness_ToepochInvertsFromepoch :
    ∃ s : State, s.params.hour12Rule = .contract ∧ 946684800 ≤ (s.inp.a.toNat : Int) + 3600 * hours s.inp.tz ∧
      (s.inp.a.toNat : Int) + 3600 * hours s.inp.tz ≤ 4102444799 :=
  ⟨{ State.reset with inp := { State.resetInputs with a := 4102444799 } }, by decide⟩

/-- Boundary bursts of the admitted forms, and the first ones past each boundary. -/
theorem witness_admitted_bursts :
    touchesOnlyNamed 0x00 8 ∧ touchesOnlyNamed 0x07 1 ∧ touchesOnlyNamed 0x0E 2 ∧ touchesOnlyNamed 0x0F 1 := by
  refine ⟨?_, ?_, ?_, ?_⟩ <;> intro k hk <;> omega

theorem witness_refused_bursts :
    admitted 0x00 0 = false ∧ admitted 0x00 9 = false ∧ admitted 0x07 2 = false ∧ admitted 0x08 1 = false ∧
    admitted 0x0D 1 = false ∧ admitted 0x0F 2 = false := by decide

theorem witness_DeviceReadsReturnTheRegisters :
    (Instr.devrdHundredths, 0x00) ∈ readRows ∧
    ({ State.reset with burst := { count := 8, data := [] } } : State).linkUp = true ∧ 1 ≤ 8 := by decide

theorem witness_DeviceWritesStoreTheBytes :
    (Instr.devwrStatus, 0x0E) ∈ writeRows ∧
    ({ State.reset with burst := { count := 0, data := [1, 2] } } : State).burst.data.length = 2 := by decide

theorem witness_Quiet : Quiet (quietState .month frameP1) ∧ Quiet (quietState .status frameP1) := ⟨⟨rfl, rfl⟩, ⟨rfl, rfl⟩⟩

theorem witness_ReadAfterWriteWhileStopped :
    Quiet (quietState .month []) ∧ admitted (0x06 : RegAddr).toNat [(1 : Byte), 2].length = true :=
  ⟨⟨rfl, rfl⟩, by decide⟩

theorem witness_IncompleteExchangeIsStuck :
    ∃ s : State, s.linkUp = false ∧ admitted 0x0F s.burst.count = true ∧ admitted 0x00 s.burst.data.length = true :=
  ⟨{ State.reset with linkUp := false, burst := { count := 1, data := [0, 0, 0, 0, 0, 0, 0, 0] } }, by decide⟩

/-- Both outcomes of setFormat: a mode to set, the stored mode, a mode outside the set. -/
theorem witness_SetFormatFlipsOneBit :
    stored (quietState .month frameP1) 0x03 / 64 % 2 = (1 : Byte).toNat ∧
    stored (quietState .month frameP1) 0x03 / 64 % 2 ≠ (0 : Byte).toNat ∧ 1 < (2 : Byte).toNat := by decide +kernel

/-- A stored value and another, for the plain setters and setHour. -/
theorem witness_PlainSettersClampAndWrite :
    (30 : Byte).toNat = weighed (stored (quietState .month frameP1) 0x01) ∧
    (75 : Byte).toNat ≠ weighed (stored (quietState .month frameP1) 0x01) := by decide +kernel

theorem witness_SetHourKeepsFormatAndAmPm :
    (12 : Byte).toNat = weighed (stored (quietState .month frameP1) 0x03 % 32) ∧
    stored (quietState .month frameP1) 0x03 / 64 % 2 = 1 ∧
    (7 : Byte).toNat ≠ weighed (stored (quietState .month frameP1) 0x03 % 32) := by decide +kernel

/-- H12 with PM stored: AM is accepted, PM is a no-op. -/
theorem witness_SetAmPmNeedsTwelveHourFormat :
    stored (quietState .month frameP1) 0x03 / 64 % 2 ≠ 0 ∧
    (1 : Byte).toNat = stored (quietState .month frameP1) 0x03 / 32 % 2 ∧
    ¬ (1 < (0 : Byte).toNat ∨ (0 : Byte).toNat = stored (quietState .month frameP1) 0x03 / 32 % 2) := by decide +kernel

/-- Under STATUS with the century bit stored: clearing it is accepted, setting it is a no-op; a month to set and the
stored one. -/
theorem witness_MonthSettersKeepTheSibling :
    (6 : Byte).toNat = weighed (stored (quietState .status frameP1) 0x06 % 128) ∧
    (2 : Byte).toNat ≠ weighed (stored (quietState .status frameP1) 0x06 % 128) ∧
    (1 : Byte).toNat = stored (quietState .status frameP1) 0x06 / 128 ∧
    ¬ ((quietState .status frameP1).params.validityLoc = .month ∨ 1 < (0 : Byte).toNat ∨
      (0 : Byte).toNat = stored (quietState .status frameP1) 0x06 / 128) := by decide +kernel

theorem witness_UnchangedMeansNoWrite :
    isSetter (.setSecond 30) = true ∧
    ∃ t, runCall (.setTrickleChargerMode 0x29) State.reset = .next t ∧ t.ret = some .unchanged :=
  ⟨rfl, ⟨_, rfl, rfl⟩⟩

/-- A Changed setter on a quiet device (test_P3_setHour runs the same case through a step). -/
theorem witness_ChangedFieldsAreMarkedValid :
    ∃ s t : State, isSetter (.setHour 12) = true ∧ (∀ x, HostCall.setHour 12 ≠ .setTrickleChargerMode x) ∧ Quiet s ∧
      runCall (.setHour 12) s = .next t ∧ t.ret = some .changed :=
  ⟨quietState .month [(3, 0x67), (6, 0x02)], _, rfl, nofun, ⟨rfl, rfl⟩, rfl, rfl⟩

/-- A code outside the set, the stored code, and another code of the set. -/
theorem witness_TrickleAcceptsTheClosedSet :
    (0x29 : Byte).toNat ∉ [0x00, 0xA5, 0xA9, 0xA6, 0xAA, 0xA7, 0xAB] ∧
    (0xA9 : Byte).toNat = stored (quietState .month [(15, 0xA9)]) 0x0F ∧
    (0x00 : Byte).toNat ≠ stored (quietState .month [(15, 0xA9)]) 0x0F := by decide +kernel

theorem witness_GetEpochConvertsTheStoredFrame :
    1 ≤ weighed (stored (quietState .month frameP1) 0x06 % 128) ∧
    weighed (stored (quietState .month frameP1) 0x06 % 128) ≤ 12 := by decide +kernel

/-- The edges of setEpoch's range, at timezone 0. -/
theorem witness_SetEpochThenGetEpoch :
    ((946684799 : Scalar).toNat : Int) + 3600 * hours 0 < 946684800 ∧
    946684800 ≤ ((946684800 : Scalar).toNat : Int) + 3600 * hours 0 ∧
    ((4102444799 : Scalar).toNat : Int) + 3600 * hours 0 ≤ 4102444799 ∧
    4102444799 < ((4102444800 : Scalar).toNat : Int) + 3600 * hours 0 := by decide

theorem witness_FromepochFindsTheDate :
    ∃ s s' : State, ¬ ((s.inp.a.toNat : Int) + 3600 * hours s.inp.tz < 0 ∨ 2 ^ 32 ≤ (s.inp.a.toNat : Int) + 3600 * hours s.inp.tz) ∧
      (s'.inp.a.toNat : Int) + 3600 * hours s'.inp.tz < 0 :=
  ⟨State.reset, { State.reset with inp := { State.resetInputs with tz := 0xFF } }, by decide, by decide⟩

end Sys2Proof.Tests
end

section
/-!
What a CORE transaction depends on. The CORE reads its input ports, the parameters and the draw number, and nothing else
of the state (10_state.md R30).
-/

namespace Sys2Proof.Proofs

open Sys2Proof Sys2Proof.Machine

/-- The two states present the same to the CORE: equal inputs, parameters and draw number (10_state.md R30). -/
def SameCoreView (s s' : State) : Prop := s.inp = s'.inp ∧ s.params = s'.params ∧ s.draws = s'.draws

/-- The same answer, appearing on the output ports of `s`. -/
def answerOn (s : State) (r : Result) : Result := andThen r fun t => .next (respond s t.out)

@[simp] theorem answerOn_respond (s s' : State) (o : Outputs) :
    answerOn s' (.next (respond s o)) = .next (respond s' o) := rfl

/-- A CORE command answers alike in two states that present the same to the CORE. A meaning without a branch reads nothing
else, by computation; the eight with one take the same branch in both states, since it is on a parameter or an input. -/
theorem exec_core_sameView {i : Instr} (h : i.channel = .cmd) {s s' : State} (hv : SameCoreView s s') :
    exec i s' = answerOn s' (exec i s) := by
  cases s
  cases s'
  obtain ⟨hinp, hparams, hdraws⟩ := hv
  dsimp only at hinp hparams hdraws
  subst hinp hparams hdraws
  cases i <;> simp only [Instr.channel, reduceCtorEq] at h <;> simp only [exec]
  case fencStatus => simp only [execFencStatus]; split <;> rfl
  case fdecMonth => simp only [execFdecMonth]; split <;> rfl
  case fdecStatus => simp only [execFdecStatus]; split <;> rfl
  case frmenc => simp only [execFrmenc]; split <;> rfl
  case mdays => simp only [execMdays, apply_ite (answerOn _)]; rfl
  case h24to12 => simp only [execH24to12, apply_ite (answerOn _)]; rfl
  case toepoch => simp only [execToepoch, operandTz]; split <;> rfl
  case fromepoch => simp only [execFromepoch, operandScalar, operandTz]; split <;> rfl
  all_goals rfl

/-- A transaction answers alike in two states that present the same to the CORE, whether its command word is legal or
not. -/
theorem coreTransaction_sameView {s s' : State} (hv : SameCoreView s s') :
    coreTransaction s' = answerOn s' (coreTransaction s) := by
  obtain ⟨hinp, hparams, hdraws⟩ := hv
  unfold coreTransaction
  rw [← hinp]
  split
  next i hi => exact exec_core_sameView (decodeCmd_channel _ i hi) ⟨hinp, hparams, hdraws⟩
  next => simp only [raiseIllegal, undriven, hdraws, answerOn_respond]

/-- One answer serves both states. -/
theorem coreTransaction_sameView_respond {s s' : State} (hv : SameCoreView s s') :
    ∃ o, coreTransaction s = .next (respond s o) ∧ coreTransaction s' = .next (respond s' o) := by
  obtain ⟨o, ho⟩ := coreTransaction_respond s
  exact ⟨o, ho, by rw [coreTransaction_sameView hv, ho, answerOn_respond]⟩

theorem coreFrame_respond (s : State) (o : Outputs) : CoreFrame s (respond s o) := rfl

/-- The outputs standing on the ports do not matter to the next transaction, which overwrites them. -/
theorem issue_respond_eq (c : Byte) (inp : Inputs) (s : State) (o : Outputs) :
    issue c inp (respond s o) = issue c inp { s with draws := s.draws + 1 } := by
  have hv : SameCoreView { respond s o with inp := { inp with cmd := c } }
      { s with inp := { inp with cmd := c }, draws := s.draws + 1 } := ⟨rfl, rfl, rfl⟩
  obtain ⟨o', hfirst, hsecond⟩ := coreTransaction_sameView_respond hv
  exact hfirst.trans hsecond.symm

/-- Settles O12: one answer serves every state that presents the same to the CORE, and what the first transaction left
on the output ports is no part of what the second one reads or keeps. -/
theorem transactionsHoldNothing : Obligations.TransactionsHoldNothing := by
  unfold Obligations.TransactionsHoldNothing
  constructor
  · intro s s' hinp hparams hdraws
    obtain ⟨o, ho, ho'⟩ := coreTransaction_sameView_respond ⟨hinp, hparams, hdraws⟩
    exact ⟨_, _, ho, ho', rfl, coreFrame_respond s o, coreFrame_respond s' o⟩
  · intro s t c inp ht
    obtain ⟨o, ho⟩ := coreTransaction_respond s
    obtain rfl : respond s o = t := by simpa [ho] using ht
    exact issue_respond_eq c inp s o

end Sys2Proof.Proofs
end

section
/-!
Which command words the CORE answers Illegal (30_encoding.md R107): what the decoder rejects, clauses 1 to 3, and what
the parameters make illegal of the words it decodes, clause 4.
-/

namespace Sys2Proof.Proofs

open Sys2Proof Sys2Proof.Machine Sys2Proof.Claims

/-- Clauses 1 to 3 of 30_encoding.md R107: the word stands for no operation under any parameters. -/
abbrev UndefinedWord (c : Byte) : Prop :=
  let op := c.toNat / 16
  let sel := c.toNat % 16
  op = 0x0 ∨ op = 0xE ∨ op = 0xF ∨
    (op ≠ 0x3 ∧ op ≠ 0x4 ∧ sel ≠ 0) ∨
    ((op = 0x3 ∨ op = 0x4) ∧ ((0x8 ≤ sel ∧ sel ≤ 0xD) ∨ sel = 0xF))

/-- The words of clause 4 of 30_encoding.md R107, FENC and FDEC with the selector of the status byte. -/
abbrev StatusWord (c : Byte) : Prop :=
  (c.toNat / 16 = 0x3 ∨ c.toNat / 16 = 0x4) ∧ c.toNat % 16 = 0xE

/-- The decoder rejects exactly the words of clauses 1 to 3. -/
theorem decodeCmd_isOk_eq_false_iff (c : Byte) : (decodeCmd c).isOk = false ↔ UndefinedWord c := by
  revert c
  decide

/-- The words of clause 4 are those of FENC.STATUS and FDEC.STATUS. -/
theorem decodeCmd_status_iff (c : Byte) :
    (decodeCmd c = .ok .fencStatus ∨ decodeCmd c = .ok .fdecStatus) ↔ StatusWord c := by
  revert c
  decide

/-- The parameters make exactly FENC.STATUS and FDEC.STATUS illegal, under MONTH. -/
theorem wf_eq_false_iff (i : Instr) : Laws.Legality.Statement i := by
  cases i
  case fencStatus => exact Laws.Legality.fencStatus
  case fdecStatus => exact Laws.Legality.fdecStatus
  all_goals exact Laws.Legality.always (fun _ => rfl) nofun nofun

theorem legalWord_of_ok {c : Byte} {i : Instr} (h : decodeCmd c = .ok i) (p : Params) : legalWord p c = i.wf p := by
  simp only [legalWord, h]

theorem legalWord_of_error {c : Byte} {e : DecodeError} (h : decodeCmd c = .error e) (p : Params) :
    legalWord p c = false := by
  simp only [legalWord, h]

/-- A word is illegal exactly by the four clauses: the decoder rejects it, or it decodes to a status-byte command while
the flag lives in the month byte. -/
theorem legalWord_eq_false_iff (p : Params) (c : Byte) :
    legalWord p c = false ↔ UndefinedWord c ∨ (StatusWord c ∧ p.validityLoc = .month) := by
  have hdefined := decodeCmd_isOk_eq_false_iff c
  have hstatus := decodeCmd_status_iff c
  cases h : decodeCmd c with
  | error e =>
    have hundefined : UndefinedWord c := hdefined.mp (by rw [h]; rfl)
    exact iff_of_true (legalWord_of_error h p) (.inl hundefined)
  | ok i =>
    have hdef : ¬ UndefinedWord c := hdefined.not.mp (by rw [h]; nofun)
    rw [h, Except.ok.injEq, Except.ok.injEq] at hstatus
    rw [legalWord_of_ok h, wf_eq_false_iff i p, hstatus, or_iff_right hdef, and_comm]

/-- A legal CORE command is answered OK. -/
theorem exec_rs_of_wf {i : Instr} {s : State} (h : i.channel = .cmd) (hw : i.wf s.params = true) :
    ∃ t, exec i s = .next t ∧ t.out.rs = rsOk := by
  cases i <;> simp only [Instr.channel, reduceCtorEq] at h <;> simp only [exec]
  case fencStatus => simp only [execFencStatus, eq_of_beq hw]; exact ⟨_, rfl, rfl⟩
  case fdecStatus => simp only [execFdecStatus, eq_of_beq hw]; exact ⟨_, rfl, rfl⟩
  case fdecMonth => simp only [execFdecMonth]; split <;> exact ⟨_, rfl, rfl⟩
  case frmenc => simp only [execFrmenc]; split <;> exact ⟨_, rfl, rfl⟩
  case mdays => simp only [execMdays]; split <;> exact ⟨_, rfl, rfl⟩
  case h24to12 => simp only [execH24to12]; split <;> exact ⟨_, rfl, rfl⟩
  case toepoch => simp only [execToepoch]; split <;> exact ⟨_, rfl, rfl⟩
  case fromepoch => simp only [execFromepoch]; split <;> exact ⟨_, rfl, rfl⟩
  all_goals exact ⟨_, rfl, rfl⟩

/-- An illegal CORE command raises Illegal: it can only be a status-byte command under MONTH. -/
theorem exec_of_not_wf {i : Instr} {s : State} (hw : i.wf s.params = false) : exec i s = .next (raiseIllegal s) := by
  obtain ⟨hmonth, rfl | rfl⟩ := (wf_eq_false_iff i s.params).mp hw
  · simp only [exec, execFencStatus, hmonth]
  · simp only [exec, execFdecStatus, hmonth]

theorem coreTransaction_of_ok {s : State} {i : Instr} (h : decodeCmd s.inp.cmd = .ok i) :
    coreTransaction s = exec i s := by
  simp only [coreTransaction, h]

theorem coreTransaction_of_error {s : State} {e : DecodeError} (h : decodeCmd s.inp.cmd = .error e) :
    coreTransaction s = .next (raiseIllegal s) := by
  simp only [coreTransaction, h]

/-- An illegal word raises Illegal, whichever clause makes it so. -/
theorem coreTransaction_of_illegal {s : State} (h : legalWord s.params s.inp.cmd = false) :
    coreTransaction s = .next (raiseIllegal s) := by
  cases hd : decodeCmd s.inp.cmd with
  | error e => exact coreTransaction_of_error hd
  | ok i =>
    rw [legalWord_of_ok hd] at h
    rw [coreTransaction_of_ok hd, exec_of_not_wf h]

/-- A legal word is answered OK, by the legal operation it decodes to. -/
theorem coreTransaction_of_legal {s : State} (h : legalWord s.params s.inp.cmd = true) :
    ∃ t, coreTransaction s = .next t ∧ t.out.rs = rsOk ∧
      ∃ i, decodeCmd s.inp.cmd = .ok i ∧ i.wf s.params = true ∧ exec i s = .next t := by
  cases hd : decodeCmd s.inp.cmd with
  | error e => simp [legalWord_of_error hd] at h
  | ok i =>
    rw [legalWord_of_ok hd] at h
    obtain ⟨t, ht, hrs⟩ := exec_rs_of_wf (decodeCmd_channel _ i hd) h
    exact ⟨t, (coreTransaction_of_ok hd).trans ht, hrs, i, rfl, h, ht⟩

/-- What `raiseIllegal` leaves is the Illegal response (60_exceptions.md R341). -/
theorem illegalAnswer_raiseIllegal (s : State) : IllegalAnswer s (raiseIllegal s) := by
  refine ⟨rfl, rfl, rfl, fun p hrs hwe => ?_⟩
  cases p with
  | rs => exact absurd rfl hrs
  | stWe => exact absurd rfl hwe
  | raw k => fin_cases k <;> rfl
  | _ => rfl

/-- Where the validity flag lives decides how many words are legal. -/
theorem legalWord_count (p : Params) :
    (List.range 256).countP (fun n => legalWord p (BitVec.ofNat 8 n)) =
      match p.validityLoc with
      | .month => 27
      | .status => 29 := by
  have hlegal (c : Byte) :
      legalWord p c = !decide (UndefinedWord c ∨ (StatusWord c ∧ p.validityLoc = .month)) := by
    simp only [← legalWord_eq_false_iff]
    cases legalWord p c <;> rfl
  simp only [hlegal]
  cases p.validityLoc <;> decide +kernel

/-- Settles O3: the CORE raises Illegal exactly on the words that are not legal, which are those of the four clauses, and
the clauses are counted over the 256 words. -/
theorem illegalWordsAreExactlyTheFourClauses : Obligations.IllegalWordsAreExactlyTheFourClauses := by
  unfold Obligations.IllegalWordsAreExactlyTheFourClauses
  refine ⟨fun s => ?_, legalWord_count⟩
  have hclauses := legalWord_eq_false_iff s.params s.inp.cmd
  simp only [UndefinedWord, StatusWord, or_assoc, and_assoc] at hclauses
  cases hl : legalWord s.params s.inp.cmd with
  | false =>
    refine ⟨_, coreTransaction_of_illegal hl, ?_⟩
    rw [if_pos (hclauses.mp hl)]
    exact illegalAnswer_raiseIllegal s
  | true =>
    obtain ⟨t, ht, hanswer⟩ := coreTransaction_of_legal hl
    refine ⟨t, ht, ?_⟩
    rw [if_neg (hclauses.not.mp (by simp [hl]))]
    exact hanswer

end Sys2Proof.Proofs
end

section
/-!
How a single CORE command is reached and how it answers: its command word, the words of its `OP` that are illegal, and
what stands on the output ports once it drove `Y` alone (00_scope.md R16, 30_encoding.md R101, R107).
-/

namespace Sys2Proof.Proofs

open Sys2Proof Sys2Proof.Machine Sys2Proof.Claims

/-- The command word of a CORE command decodes to it. -/
theorem decodeCmd_encode {i : Instr} (h : i.channel = .cmd) : decodeCmd (encode i) = .ok i := by
  cases i <;> simp only [Instr.channel, reduceCtorEq] at h <;> rfl

/-- A command word that decodes is the one the encoder gives. -/
theorem encode_of_decodeCmd {c : Byte} {i : Instr} (h : decodeCmd c = .ok i) : encode i = c := by
  have key : ∀ c : Byte, (match decodeCmd c with | .ok i => encode i == c | .error _ => true) = true := by
    decide
  simpa [h] using key c

/-- A CORE command has one command word, the encoder's. -/
theorem encodedAs_encode {i : Instr} (h : i.channel = .cmd) : EncodedAs i (encode i) := by
  intro c
  constructor
  · exact fun hc => (encode_of_decodeCmd hc).symm
  · rintro rfl
    exact decodeCmd_encode h

/-- Outside FENC and FDEC a non-zero `SEL` is illegal, by clause 2 of 30_encoding.md R107. -/
theorem onlySelZero_of_no_field {op : Nat} (hfenc : op ≠ 0x3) (hfdec : op ≠ 0x4) : OnlySelZero op := by
  rintro s rfl hsel
  have hundefined : UndefinedWord s.inp.cmd := .inr (.inr (.inr (.inl ⟨hfenc, hfdec, hsel⟩)))
  have hillegal := (legalWord_eq_false_iff s.params s.inp.cmd).mpr (.inl hundefined)
  exact ⟨_, coreTransaction_of_illegal hillegal, illegalAnswer_raiseIllegal s⟩

/-- Driving `Y` leaves every other port as a legal transaction that drives nothing leaves it. -/
theorem outPort_undriven_with_y (s : State) (v : Scalar) {p : OutPort} (hy : p ≠ .y) (hrs : p ≠ .rs) (hwe : p ≠ .stWe) :
    outPort { undriven s with y := v } p = outPort (unspecifiedOutputs s.draws) p := by
  cases p with
  | y => exact absurd rfl hy
  | rs => exact absurd rfl hrs
  | stWe => exact absurd rfl hwe
  | raw k => fin_cases k <;> rfl
  | _ => rfl

/-- A command that drives `Y` alone answers with the number it puts there. -/
theorem answers_yIs {i : Instr} {s : State} {v : Scalar} {n : Nat}
    (hexec : exec i s = .next (respond s { undriven s with y := v })) (hv : v.toNat = n) :
    Answers i s [.y] (yIs n) := by
  refine ⟨_, hexec, coreFrame_respond s _, rfl, fun p hp hrs hwe => ?_, rfl, hv⟩
  exact outPort_undriven_with_y s v (List.ne_of_not_mem_cons hp) hrs hwe

/-- A command issued by its word gives the host what the command answers on the ports the host presents. -/
theorem issue_of_answers {i : Instr} {c : Byte} {inp : Inputs} {s : State} {driven : List OutPort} {P : Outputs → Prop}
    (hc : EncodedAs i c) (ha : Answers i { s with inp := { inp with cmd := c } } driven P) :
    ∃ t, issue c inp s = .next t ∧ P t.out := by
  obtain ⟨t, ht, -, -, -, hP⟩ := ha
  have hissue : issue c inp s = exec i { s with inp := { inp with cmd := c } } :=
    coreTransaction_of_ok (s := { s with inp := { inp with cmd := c } }) ((hc c).mpr rfl)
  exact ⟨t, hissue.trans ht, hP⟩

/-- The operand byte is the number in `A[7:0]`. -/
theorem operandByte_toNat (s : State) : (operandByte s).toNat = lowByte s := by
  simp [operandByte, lowByte]

end Sys2Proof.Proofs
end

section
/-!
The BCD codec (40_bcd_codec.md): BCDENC and BCDDEC as arithmetic on numbers below 256, and the two compositions of them.
-/

namespace Sys2Proof.Proofs

open Sys2Proof Sys2Proof.Machine Sys2Proof.Claims

/-- The number BCDENC packs a byte into: of the tens, the four bits that fit in the high nibble (40_bcd_codec.md R140). -/
def nibblePacked (v : Nat) : Nat := v / 10 % 16 * 16 + v % 10

theorem bcdEnc_toNat (v : Byte) : (bcdEnc v).toNat = nibblePacked v.toNat := by
  have hdigit : v.toNat % 10 < 2 ^ 4 := by omega
  have hor : (v.toNat / 10) <<< 4 ||| v.toNat % 10 = v.toNat / 10 * 16 + v.toNat % 10 := by
    rw [← Nat.shiftLeft_add_eq_or_of_lt hdigit, Nat.shiftLeft_eq]
  rw [bcdEnc, hor, BitVec.toNat_ofNat, nibblePacked]
  omega

theorem bcdDec_eq_weighed (b : Byte) : bcdDec b = weighed b.toNat := by
  have hhigh : (b.extractLsb' 4 4).toNat = b.toNat / 16 := by
    rw [BitVec.extractLsb'_toNat, Nat.shiftRight_eq_div_pow]
    omega
  have hlow : (b.extractLsb' 0 4).toNat = b.toNat % 16 := by simp
  rw [bcdDec, hhigh, hlow, weighed]

/-! Two nibbles as numbers: how far each composition of the codec is the identity (R144, R145). -/

theorem weighed_le {b : Nat} (hb : b < 256) : weighed b ≤ 165 := by
  unfold weighed
  omega

theorem weighed_le_of_digits {b : Nat} (hhigh : b / 16 ≤ 9) (hlow : b % 16 ≤ 9) : weighed b ≤ 99 := by
  unfold weighed
  omega

theorem nibblePacked_lt (v : Nat) : nibblePacked v < 256 := by
  unfold nibblePacked
  omega

/-- From 160 on, the tens no longer fit in the high nibble. -/
theorem weighed_nibblePacked_iff {v : Nat} (hv : v < 256) : weighed (nibblePacked v) = v ↔ v ≤ 159 := by
  unfold weighed nibblePacked
  omega

/-- Packing writes a decimal digit into the low nibble; where the byte had one, it is the same. -/
theorem nibblePacked_weighed_iff {b : Nat} (hb : b < 256) : nibblePacked (weighed b) = b ↔ b % 16 ≤ 9 := by
  unfold weighed nibblePacked
  omega

/-- Two digits are determined by the number they weigh. -/
theorem weighed_inj {b c : Nat} (hb : b % 16 ≤ 9) (hc : c % 16 ≤ 9) (h : weighed b = weighed c) : b = c := by
  unfold weighed at h
  omega

/-- Every number of two decimal digits is decoded from its packed byte, whose nibbles are digits. -/
theorem bcdDec_bcdEnc_of_le {n : Nat} (hn : n ≤ 99) :
    (bcdEnc (BitVec.ofNat 8 n)).toNat / 16 ≤ 9 ∧ (bcdEnc (BitVec.ofNat 8 n)).toNat % 16 ≤ 9 ∧
      bcdDec (bcdEnc (BitVec.ofNat 8 n)) = n := by
  have hbyte : (BitVec.ofNat 8 n).toNat = n := Nat.mod_eq_of_lt (by omega)
  rw [bcdDec_eq_weighed, bcdEnc_toNat, hbyte]
  refine ⟨?_, ?_, (weighed_nibblePacked_iff (by omega)).mpr (by omega)⟩ <;> unfold nibblePacked <;> omega

/-! The two operations. -/

theorem lowByte_lt (s : State) : lowByte s < 256 := Nat.mod_lt _ (by decide)

theorem answers_bcdenc (s : State) : Answers .bcdenc s [.y] (yIs (nibblePacked (lowByte s))) := by
  refine answers_yIs rfl ?_
  rw [zext32, BitVec.toNat_setWidth_of_le (by decide), bcdEnc_toNat, operandByte_toNat]

theorem answers_bcddec (s : State) : Answers .bcddec s [.y] (yIs (weighed (lowByte s))) := by
  have hbound := weighed_le (lowByte_lt s)
  refine answers_yIs rfl ?_
  rw [bcdDec_eq_weighed, operandByte_toNat, BitVec.toNat_ofNat]
  omega

theorem encodedAs_bcdenc : EncodedAs .bcdenc 0x10 := encodedAs_encode rfl

theorem encodedAs_bcddec : EncodedAs .bcddec 0x20 := encodedAs_encode rfl

theorem issue_bcdenc (inp : Inputs) (s : State) :
    ∃ t, issue 0x10 inp s = .next t ∧ t.out.y.toNat = nibblePacked (inp.a.toNat % 256) := by
  obtain ⟨t, ht, -, hy⟩ := issue_of_answers encodedAs_bcdenc (answers_bcdenc _)
  exact ⟨t, ht, hy⟩

theorem issue_bcddec (inp : Inputs) (s : State) :
    ∃ t, issue 0x20 inp s = .next t ∧ t.out.y.toNat = weighed (inp.a.toNat % 256) := by
  obtain ⟨t, ht, -, hy⟩ := issue_of_answers encodedAs_bcddec (answers_bcddec _)
  exact ⟨t, ht, hy⟩

/-- Settles O17: the word, the illegal selectors and the answer, each from its lemma. -/
theorem bcdencPacksTheByte : Obligations.BcdencPacksTheByte := by
  unfold Obligations.BcdencPacksTheByte
  exact ⟨encodedAs_bcdenc, onlySelZero_of_no_field (by decide) (by decide), answers_bcdenc⟩

/-- Settles O18: the word, the illegal selectors and the answer, each from its lemma. -/
theorem bcddecWeighsTheNibbles : Obligations.BcddecWeighsTheNibbles := by
  unfold Obligations.BcddecWeighsTheNibbles
  exact ⟨encodedAs_bcddec, onlySelZero_of_no_field (by decide) (by decide),
    fun s => ⟨weighed_le (lowByte_lt s), answers_bcddec s⟩⟩

/-- Settles O19: the second transaction weighs the packed byte, which gives the number back as long as its tens fit in a
nibble. -/
theorem encodeThenDecodeIsIdentityBelow160 : Obligations.EncodeThenDecodeIsIdentityBelow160 := by
  unfold Obligations.EncodeThenDecodeIsIdentityBelow160
  intro s
  obtain ⟨t, ht, hpacked⟩ := issue_bcdenc s.inp s
  obtain ⟨u, hu, hweighed⟩ := issue_bcddec { t.inp with a := t.out.y } t
  refine ⟨t, u, ht, hu, ?_⟩
  rw [hweighed, hpacked, Nat.mod_eq_of_lt (nibblePacked_lt _)]
  exact weighed_nibblePacked_iff (lowByte_lt s)

/-- Re-encoding a decoded byte, as two transactions (40_bcd_codec.md R145). -/
theorem issue_bcddec_then_bcdenc (s : State) :
    ∃ t u, issue 0x20 s.inp s = .next t ∧ issue 0x10 { t.inp with a := t.out.y } t = .next u ∧
      t.out.y.toNat = weighed (lowByte s) ∧ u.out.y.toNat = nibblePacked (weighed (lowByte s)) := by
  obtain ⟨t, ht, hweighed⟩ := issue_bcddec s.inp s
  obtain ⟨u, hu, hpacked⟩ := issue_bcdenc { t.inp with a := t.out.y } t
  have hbyte : weighed (s.inp.a.toNat % 256) < 256 := (weighed_le (lowByte_lt s)).trans_lt (by decide)
  rw [hweighed, Nat.mod_eq_of_lt hbyte] at hpacked
  exact ⟨t, u, ht, hu, hweighed, hpacked⟩

/-- Settles O20: the transactions by `issue_bcddec_then_bcdenc`; the byte of a number is its packed byte, and no other has
digits that weigh the same; over all bytes 0x0A and 0x10 both decode to 10. -/
theorem decodeThenEncodeOnValidBcd : Obligations.DecodeThenEncodeOnValidBcd := by
  unfold Obligations.DecodeThenEncodeOnValidBcd
  refine ⟨fun s => ?_, fun n hn => ?_, 0x0A, 0x10, by decide, by decide⟩
  · obtain ⟨t, u, ht, hu, hweighed, hpacked⟩ := issue_bcddec_then_bcdenc s
    refine ⟨t, u, ht, hu, ?_, fun hhigh hlow => ?_⟩
    · rw [hpacked]
      exact nibblePacked_weighed_iff (lowByte_lt s)
    · rw [hweighed]
      exact weighed_le_of_digits hhigh hlow
  · obtain ⟨hhigh, hlow, hdec⟩ := bcdDec_bcdEnc_of_le hn
    refine ⟨_, hhigh, hlow, hdec, fun c _ hclow hcdec => ?_⟩
    have hsame : weighed c.toNat = weighed (bcdEnc (BitVec.ofNat 8 n)).toNat := by
      rw [← bcdDec_eq_weighed, ← bcdDec_eq_weighed, hcdec, hdec]
    exact BitVec.eq_of_toNat_eq (weighed_inj hclow hlow hsame)

end Sys2Proof.Proofs
end

section
/-!
The bytes of the frame codec as numbers (41_frame_codec.md R160-R165): what each encoder packs, what each decoder reads,
and that decoding an encoded field in its domain gives the field back.
-/

namespace Sys2Proof.Proofs

open Sys2Proof Sys2Proof.Machine Sys2Proof.Claims

theorem clamp_eq_clamped (v lo hi : Nat) : clamp v lo hi = clamped v lo hi := rfl

theorem clamped_le (v lo hi : Nat) : clamped v lo hi ≤ hi := Nat.min_le_right _ _

theorem clamped_of_mem {v lo hi : Nat} (hlo : lo ≤ v) (hhi : v ≤ hi) : clamped v lo hi = v := by
  rw [clamped, Nat.max_eq_left hlo, Nat.min_eq_left hhi]

/-- A number of two decimal digits has its tens in the high nibble without a cut. -/
theorem nibblePacked_eq_packed {n : Nat} (hn : n ≤ 99) : nibblePacked n = packed n := by
  unfold nibblePacked packed
  omega

theorem weighed_packed (n : Nat) : weighed (packed n) = n := by
  unfold weighed packed
  omega

theorem packed_le_packed {n m : Nat} (h : n ≤ m) : packed n ≤ packed m := by
  unfold packed
  omega

/-- What two nibbles weigh fits a byte, so it fits a port of at least eight bits. -/
theorem ofNat_weighed_toNat {w b : Nat} (hw : 8 ≤ w) (hb : b < 256) :
    (BitVec.ofNat w (weighed b)).toNat = weighed b := by
  have hport : 2 ^ 8 ≤ 2 ^ w := Nat.pow_le_pow_right (by decide) hw
  have hweight := weighed_le hb
  rw [BitVec.toNat_ofNat, Nat.mod_eq_of_lt (by omega)]

theorem bcdDec_le (b : Byte) : bcdDec b ≤ 165 := by
  rw [bcdDec_eq_weighed]
  exact weighed_le b.isLt

theorem ofNat_bcdDec_toNat {w : Nat} (hw : 8 ≤ w) (b : Byte) :
    (BitVec.ofNat w (bcdDec b)).toNat = weighed b.toNat := by
  rw [bcdDec_eq_weighed, ofNat_weighed_toNat hw b.isLt]

@[simp] theorem zext32_toNat (b : Byte) : (zext32 b).toNat = b.toNat :=
  BitVec.toNat_setWidth_of_le (by decide)

/-! Bits of a byte: one above the bits of a smaller number is an addend, one read is a digit. -/

theorem or_shifted_bit_toNat {x : Byte} {k : Nat} (hk : k < 8) (hx : x.toNat < 2 ^ k) (b : Bit) :
    (x ||| b.setWidth 8 <<< k).toNat = x.toNat + 2 ^ k * b.toNat := by
  have hbit : b.toNat ≤ 1 := Nat.le_of_lt_succ b.isLt
  have hpow : 2 ^ k ≤ 2 ^ 7 := Nat.pow_le_pow_right (by decide) (by omega)
  have hshift : (b.setWidth 8 <<< k).toNat = b.toNat <<< k := by
    rw [BitVec.toNat_shiftLeft, BitVec.toNat_setWidth_of_le (by decide), Nat.shiftLeft_eq, Nat.mod_eq_of_lt]
    calc b.toNat * 2 ^ k ≤ 1 * 2 ^ 7 := Nat.mul_le_mul hbit hpow
      _ < 2 ^ 8 := by decide
  rw [BitVec.toNat_or, hshift, Nat.or_comm, ← Nat.shiftLeft_add_eq_or_of_lt hx, Nat.shiftLeft_eq, Nat.mul_comm,
    Nat.add_comm]

theorem and_mask_toNat {b m : Byte} {k : Nat} (hm : m.toNat = 2 ^ k - 1) : (b &&& m).toNat = b.toNat % 2 ^ k := by
  rw [BitVec.toNat_and, hm, Nat.and_two_pow_sub_one_eq_mod]

theorem extract_bit_toNat (b : Byte) (k : Nat) : (b.extractLsb' k 1).toNat = b.toNat / 2 ^ k % 2 := by
  rw [BitVec.extractLsb'_toNat, Nat.shiftRight_eq_div_pow, Nat.pow_one]

theorem formatBit_toNat (b : Byte) : (formatBit b).toNat = b.toNat / 64 % 2 := extract_bit_toNat b 6

theorem ampmBit_toNat (b : Byte) : (ampmBit b).toNat = b.toNat / 32 % 2 := extract_bit_toNat b 5

theorem top_bit_toNat (b : Byte) : (b.extractLsb' 7 1).toNat = b.toNat / 128 := by
  have hb := b.isLt
  rw [extract_bit_toNat]
  omega

theorem covBit_toNat (b : Byte) : (covBit b).toNat = b.toNat / 128 := top_bit_toNat b

theorem not_bit_toNat (b : Bit) : (~~~ b).toNat = 1 - b.toNat := by
  rw [BitVec.toNat_not]

theorem statusDec_toNat (b : Byte) : (statusDec b).toNat = 1 - b.toNat / 128 := by
  rw [statusDec, not_bit_toNat, top_bit_toNat]

/-! The encoders. -/

theorem encClamped_toNat (v : Byte) {lo hi : Nat} (hhi : hi ≤ 99) :
    (encClamped v lo hi).toNat = packed (clamped v.toNat lo hi) := by
  have hle : clamped v.toNat lo hi ≤ 99 := (clamped_le ..).trans hhi
  have hbyte : (BitVec.ofNat 8 (clamped v.toNat lo hi)).toNat = clamped v.toNat lo hi :=
    Nat.mod_eq_of_lt (by omega)
  rw [encClamped, clamp_eq_clamped, bcdEnc_toNat, hbyte, nibblePacked_eq_packed hle]

/-- A field of at most 12 packs below bit 5. -/
theorem encClamped_toNat_le {v : Byte} {lo : Nat} : (encClamped v lo 12).toNat ≤ 0x12 := by
  rw [encClamped_toNat v (by decide)]
  exact packed_le_packed (clamped_le ..)

theorem hourEnc_toNat (fmt : Bit) (hr : Byte) (ampm : Bit) :
    (hourEnc fmt hr ampm).toNat = hourByte fmt.toNat hr.toNat ampm.toNat := by
  obtain rfl | rfl := BitVec.eq_zero_or_eq_one fmt
  · exact encClamped_toNat hr (by decide)
  · have hle : (encClamped hr 1 12).toNat ≤ 0x12 := encClamped_toNat_le
    have hampm : ampm.toNat ≤ 1 := Nat.le_of_lt_succ ampm.isLt
    have hlow := or_shifted_bit_toNat (x := encClamped hr 1 12) (k := 5) (by decide) (by omega) ampm
    have hhigh := or_shifted_bit_toNat (x := encClamped hr 1 12 ||| ampm.setWidth 8 <<< 5) (k := 6) (by decide)
      (by omega) 1
    rw [hlow, encClamped_toNat hr (by decide)] at hhigh
    exact hhigh

theorem monthEnc_toNat (mon : Byte) (cov : Bit) : (monthEnc mon cov).toNat = monthByte mon.toNat cov.toNat := by
  have hle : (encClamped mon 1 12).toNat ≤ 0x12 := encClamped_toNat_le
  rw [monthEnc, or_shifted_bit_toNat (by decide) (by omega), encClamped_toNat mon (by decide)]
  rfl

theorem statusEnc_toNat (valid : Bit) (st : Byte) :
    (statusEnc valid st).toNat = statusByte valid.toNat st.toNat := by
  rw [statusEnc, or_shifted_bit_toNat (by decide) ((and_mask_toNat (k := 7) rfl).trans_lt (Nat.mod_lt _ (by decide))),
    and_mask_toNat (k := 7) rfl, not_bit_toNat]
  rfl

/-! The decoders. -/

theorem hourDec_of_h24 {b : Byte} (h : b.toNat / 64 % 2 = 0) : hourDec b = (weighed (b.toNat % 64), 0, 0) := by
  have hfmt : formatBit b = fmtH24 := BitVec.eq_of_toNat_eq ((formatBit_toNat b).trans h)
  rw [hourDec, if_pos hfmt, bcdDec_eq_weighed, and_mask_toNat (k := 6) rfl]
  rfl

theorem hourDec_of_h12 {b : Byte} (h : b.toNat / 64 % 2 ≠ 0) :
    hourDec b = (weighed (b.toNat % 32), 1, ampmBit b) := by
  have hfmt : formatBit b ≠ fmtH24 := fun he => h (by rw [← formatBit_toNat, he]; rfl)
  rw [hourDec, if_neg hfmt, bcdDec_eq_weighed, and_mask_toNat (k := 5) rfl]
  rfl

theorem monthDec_eq (b : Byte) : monthDec b = (weighed (b.toNat % 128), covBit b) := by
  rw [monthDec, bcdDec_eq_weighed, and_mask_toNat (k := 7) rfl]
  rfl

theorem hourDec_fst_le (b : Byte) : (hourDec b).1 ≤ 165 := by
  rw [hourDec]
  split <;> exact bcdDec_le _

/-- The hour byte on ports: the hour on a port of at least eight bits, the format and AM/PM on one each
(41_frame_codec.md R163). -/
theorem hourDec_ports {w : Nat} (hw : 8 ≤ w) (b : Byte) :
    if b.toNat / 64 % 2 = 0 then
      (BitVec.ofNat w (hourDec b).1).toNat = weighed (b.toNat % 64) ∧
        (hourDec b).2.1.toNat = 0 ∧ (hourDec b).2.2.toNat = 0
    else
      (BitVec.ofNat w (hourDec b).1).toNat = weighed (b.toNat % 32) ∧
        (hourDec b).2.1.toNat = 1 ∧ (hourDec b).2.2.toNat = b.toNat / 32 % 2 := by
  split
  next h =>
    rw [hourDec_of_h24 h]
    exact ⟨ofNat_weighed_toNat hw (by omega), rfl, rfl⟩
  next h =>
    rw [hourDec_of_h12 h]
    exact ⟨ofNat_weighed_toNat hw (by omega), rfl, ampmBit_toNat b⟩

theorem monthDec_ports {w : Nat} (hw : 8 ≤ w) (b : Byte) :
    (BitVec.ofNat w (monthDec b).1).toNat = weighed (b.toNat % 128) ∧ (monthDec b).2.toNat = b.toNat / 128 := by
  rw [monthDec_eq]
  exact ⟨ofNat_weighed_toNat hw (by omega), covBit_toNat b⟩

/-! Decoding what was encoded. -/

theorem bcdDec_encClamped {v : Byte} {lo hi : Nat} (hhi : hi ≤ 99) (hlo : lo ≤ v.toNat) (hv : v.toNat ≤ hi) :
    bcdDec (encClamped v lo hi) = v.toNat := by
  rw [bcdDec_eq_weighed, encClamped_toNat v hhi, clamped_of_mem hlo hv, weighed_packed]

theorem hourDec_hourEnc_h24 {hr : Byte} (hhr : hr.toNat ≤ 23) : hourDec (hourEnc 0 hr 0) = (hr.toNat, 0, 0) := by
  have hbyte : (hourEnc 0 hr 0).toNat = packed hr.toNat := by
    rw [hourEnc_toNat, hourByte, if_pos (by decide), clamped_of_mem (Nat.zero_le _) hhr]
  have hle : packed hr.toNat ≤ 0x23 := packed_le_packed hhr
  rw [hourDec_of_h24 (by omega), hbyte, Nat.mod_eq_of_lt (by omega), weighed_packed]

theorem hourDec_hourEnc_h12 {hr : Byte} (hlo : 1 ≤ hr.toNat) (hhi : hr.toNat ≤ 12) (ampm : Bit) :
    hourDec (hourEnc 1 hr ampm) = (hr.toNat, 1, ampm) := by
  have hbyte : (hourEnc 1 hr ampm).toNat = packed hr.toNat + 32 * ampm.toNat + 64 := by
    rw [hourEnc_toNat, hourByte, if_neg (by decide), clamped_of_mem hlo hhi]
  have hle : packed hr.toNat ≤ 0x12 := packed_le_packed hhi
  have hampm : ampm.toNat ≤ 1 := Nat.le_of_lt_succ ampm.isLt
  have hbit : ampmBit (hourEnc 1 hr ampm) = ampm :=
    BitVec.eq_of_toNat_eq (by rw [ampmBit_toNat, hbyte]; omega)
  have hmod : (packed hr.toNat + 32 * ampm.toNat + 64) % 32 = packed hr.toNat := by omega
  rw [hourDec_of_h12 (by omega), hbit, hbyte, hmod, weighed_packed]

theorem monthDec_monthEnc {mon : Byte} (hlo : 1 ≤ mon.toNat) (hhi : mon.toNat ≤ 12) (cov : Bit) :
    monthDec (monthEnc mon cov) = (mon.toNat, cov) := by
  have hbyte : (monthEnc mon cov).toNat = packed mon.toNat + 128 * cov.toNat := by
    rw [monthEnc_toNat, monthByte, clamped_of_mem hlo hhi]
  have hle : packed mon.toNat ≤ 0x12 := packed_le_packed hhi
  have hbit : covBit (monthEnc mon cov) = cov := BitVec.eq_of_toNat_eq (by rw [covBit_toNat, hbyte]; omega)
  have hmod : (packed mon.toNat + 128 * cov.toNat) % 128 = packed mon.toNat := by omega
  rw [monthDec_eq, hbit, hbyte, hmod, weighed_packed]

theorem statusDec_statusEnc (valid : Bit) (st : Byte) : statusDec (statusEnc valid st) = valid := by
  have hvalid : valid.toNat ≤ 1 := Nat.le_of_lt_succ valid.isLt
  refine BitVec.eq_of_toNat_eq ?_
  rw [statusDec_toNat, statusEnc_toNat, statusByte]
  omega

end Sys2Proof.Proofs
end

section
/-!
FENC and FDEC: the answers of the single-field operations (41_frame_codec.md R168-R185). A lane is one of the eight
fields by its `SEL`, which is also its byte in a frame (R166, R167).
-/

namespace Sys2Proof.Proofs

open Sys2Proof Sys2Proof.Machine Sys2Proof.Claims

/-- The ports that stay at a draw when an operation drives the listed ones, `RS` and `ST_WE` (00_scope.md R16). -/
def freePorts (driven : List OutPort) : List OutPort :=
  OutPort.all.filter fun p => p ∉ OutPort.rs :: OutPort.stWe :: driven

theorem mem_outPort_all (p : OutPort) : p ∈ OutPort.all := by
  cases p with
  | raw k => revert k; decide
  | _ => decide

theorem mem_freePorts {driven : List OutPort} {p : OutPort} (hp : p ∉ driven) (hrs : p ≠ .rs) (hwe : p ≠ .stWe) :
    p ∈ freePorts driven := by
  simp [freePorts, mem_outPort_all, hp, hrs, hwe]

/-- A command answers as claimed when the ports it does not drive stand, one by one, at their draws. -/
theorem answers_of_freePorts {i : Instr} {s : State} {o : Outputs} {driven : List OutPort} {P : Outputs → Prop}
    (hexec : exec i s = .next (respond s o)) (hrs : o.rs = 0b00)
    (hfree : (freePorts driven).map (outPort o) = (freePorts driven).map (outPort (unspecifiedOutputs s.draws)))
    (hP : P o) : Answers i s driven P :=
  ⟨_, hexec, coreFrame_respond s o, hrs,
    fun p hp hprs hpwe => List.map_inj_left.mp hfree p (mem_freePorts hp hprs hpwe), hP⟩

/-- A status-byte command under MONTH gets the Illegal response (30_encoding.md R107 clause 4). -/
theorem illegalAnswer_of_month {i : Instr} {s : State} (hi : i = .fencStatus ∨ i = .fdecStatus)
    (hloc : s.params.validityLoc = .month) : ∃ t, exec i s = .next t ∧ IllegalAnswer s t :=
  ⟨_, exec_of_not_wf ((wf_eq_false_iff i s.params).mpr ⟨hloc, hi⟩), illegalAnswer_raiseIllegal s⟩

/-! FENC. -/

/-- Byte `k` of a frame. -/
def rawLane (r : RawFrame) (k : Fin 8) : Byte :=
  match k with
  | 0 => r.hundredths | 1 => r.second | 2 => r.minute | 3 => r.hour
  | 4 => r.weekday | 5 => r.day | 6 => r.month | 7 => r.year

/-- The number lane `k` packs from the input ports (41_frame_codec.md R166). -/
def laneByte (inp : Inputs) (k : Fin 8) : Nat :=
  match k with
  | 0 => packed (clamped (getPort inp .calHs) 0 99)
  | 1 => packed (clamped (getPort inp .calSec) 0 59)
  | 2 => packed (clamped (getPort inp .calMin) 0 59)
  | 3 => hourByte (getPort inp .fmt) (getPort inp .calHr) (getPort inp .calAmpm)
  | 4 => packed (clamped (getPort inp .calWd) 1 7)
  | 5 => packed (clamped (getPort inp .calDay) 1 31)
  | 6 => monthByte (getPort inp .calMon) (getPort inp .calCov)
  | 7 => packed (clamped (getPort inp .calYr) 0 99)

theorem frameEnc_lane_toNat (inp : Inputs) (k : Fin 8) :
    (rawLane (frameEnc inp.cal inp.fmt) k).toNat = laneByte inp k := by
  match k with
  | 0 => exact encClamped_toNat inp.cal.hs (by decide)
  | 1 => exact encClamped_toNat inp.cal.sec (by decide)
  | 2 => exact encClamped_toNat inp.cal.min (by decide)
  | 3 => exact hourEnc_toNat inp.fmt inp.cal.hr inp.cal.ampm
  | 4 => exact encClamped_toNat inp.cal.wd (by decide)
  | 5 => exact encClamped_toNat inp.cal.day (by decide)
  | 6 => exact monthEnc_toNat inp.cal.mon inp.cal.cov
  | 7 => exact encClamped_toNat inp.cal.yr (by decide)

theorem laneByte_lt (inp : Inputs) (k : Fin 8) : laneByte inp k < 256 := by
  rw [← frameEnc_lane_toNat]
  exact BitVec.isLt _

/-- A lane packs what stands on its own ports and nothing else. -/
theorem laneByte_congr {inp inp' : Inputs} {k : Fin 8} (h : ∀ p ∈ lanePorts k, getPort inp p = getPort inp' p) :
    laneByte inp k = laneByte inp' k := by
  fin_cases k <;> simp only [lanePorts, List.forall_mem_cons] at h <;>
    simp only [laneByte, h]

/-- FENC of lane `k` drives `Y` with byte `k` of the frame. -/
theorem exec_fencLane (s : State) (k : Fin 8) :
    exec (fencLane k) s = respondEncoded s (rawLane (frameEnc s.inp.cal s.inp.fmt) k) := by
  fin_cases k <;> rfl

theorem answers_fencLane (s : State) (k : Fin 8) : Answers (fencLane k) s [.y] (yIs (laneByte s.inp k)) :=
  answers_yIs (exec_fencLane s k) ((zext32_toNat _).trans (frameEnc_lane_toNat s.inp k))

/-- Settles O21: the words, and six lanes of `answers_fencLane`. -/
theorem plainFencClampsAndPacks : Obligations.PlainFencClampsAndPacks := by
  unfold Obligations.PlainFencClampsAndPacks
  exact ⟨encodedAs_encode rfl, encodedAs_encode rfl, encodedAs_encode rfl, encodedAs_encode rfl, encodedAs_encode rfl,
    encodedAs_encode rfl, fun s => ⟨answers_fencLane s 0, answers_fencLane s 1, answers_fencLane s 2,
      answers_fencLane s 4, answers_fencLane s 5, answers_fencLane s 7⟩⟩

/-- Settles O22: the word, and lane 3 of `answers_fencLane`. -/
theorem fencHourPacksByFormat : Obligations.FencHourPacksByFormat := by
  unfold Obligations.FencHourPacksByFormat
  exact ⟨encodedAs_encode rfl, fun s => answers_fencLane s 3⟩

/-- Settles O23: the word, and lane 6 of `answers_fencLane`. -/
theorem fencMonthPacksBesideCov : Obligations.FencMonthPacksBesideCov := by
  unfold Obligations.FencMonthPacksBesideCov
  exact ⟨encodedAs_encode rfl, fun s => answers_fencLane s 6⟩

theorem exec_fencStatus_of_status {s : State} (hloc : s.params.validityLoc = .status) :
    exec .fencStatus s = respondEncoded s (statusEnc s.inp.valid s.inp.stIn) := by
  simp only [exec, execFencStatus, hloc]

/-- Settles O24: under STATUS `Y` is the encoded status byte; under MONTH the command is not legal. -/
theorem fencStatusInvertsValidity : Obligations.FencStatusInvertsValidity := by
  unfold Obligations.FencStatusInvertsValidity
  refine ⟨encodedAs_encode rfl, fun s => ⟨fun hloc => ?_, illegalAnswer_of_month (.inl rfl)⟩⟩
  exact answers_yIs (exec_fencStatus_of_status hloc) ((zext32_toNat _).trans (statusEnc_toNat s.inp.valid s.inp.stIn))

/-! FDEC. -/

theorem answers_respondStraight {i : Instr} {s : State} (hexec : exec i s = respondStraight s) :
    Answers i s [.y] (yIs (weighed (lowByte s))) := by
  refine answers_yIs hexec ?_
  rw [ofNat_bcdDec_toNat (by decide), operandByte_toNat]

/-- Settles O25: all six are one transaction, `respondStraight`. -/
theorem straightFdecWeighsAllBits : Obligations.StraightFdecWeighsAllBits := by
  unfold Obligations.StraightFdecWeighsAllBits
  refine ⟨encodedAs_encode rfl, encodedAs_encode rfl, encodedAs_encode rfl, encodedAs_encode rfl, encodedAs_encode rfl,
    encodedAs_encode rfl, fun i hi s => answers_respondStraight ?_⟩
  fin_cases hi <;> rfl

/-- Settles O26: the three driven ports hold what `hourDec` reads from the operand byte. -/
theorem fdecHourReadsTheByteFormat : Obligations.FdecHourReadsTheByteFormat := by
  unfold Obligations.FdecHourReadsTheByteFormat
  refine ⟨encodedAs_encode rfl, fun s => answers_of_freePorts rfl rfl rfl ?_⟩
  have hports := hourDec_ports (w := 32) (by decide) (operandByte s)
  rw [operandByte_toNat] at hports
  simpa only [yIs, undriven_stWe, true_and] using hports

theorem exec_fdecMonth_of_month {s : State} (hloc : s.params.validityLoc = .month) :
    exec .fdecMonth s = .next (respond s { undriven s with
      y := BitVec.ofNat 32 (monthDec (operandByte s)).1
      covOut := (monthDec (operandByte s)).2
      validOut := (monthDec (operandByte s)).2 }) := by
  simp only [exec, execFdecMonth, hloc]

theorem exec_fdecMonth_of_status {s : State} (hloc : s.params.validityLoc = .status) :
    exec .fdecMonth s = .next (respond s { undriven s with
      y := BitVec.ofNat 32 (monthDec (operandByte s)).1
      covOut := (monthDec (operandByte s)).2 }) := by
  simp only [exec, execFdecMonth, hloc]

/-- Settles O27: the driven ports hold what `monthDec` reads from the operand byte. -/
theorem fdecMonthSplitsCov : Obligations.FdecMonthSplitsCov := by
  unfold Obligations.FdecMonthSplitsCov
  refine ⟨encodedAs_encode rfl, fun s => ?_⟩
  obtain ⟨hmonth, hcov⟩ := monthDec_ports (w := 32) (by decide) (operandByte s)
  rw [operandByte_toNat] at hmonth hcov
  exact ⟨fun hloc => answers_of_freePorts (exec_fdecMonth_of_month hloc) rfl rfl ⟨⟨rfl, hmonth⟩, hcov, hcov⟩,
    fun hloc => answers_of_freePorts (exec_fdecMonth_of_status hloc) rfl rfl ⟨⟨rfl, hmonth⟩, hcov⟩⟩

theorem exec_fdecStatus_of_status {s : State} (hloc : s.params.validityLoc = .status) :
    exec .fdecStatus s = .next (respond s { undriven s with validOut := statusDec (operandByte s) }) := by
  simp only [exec, execFdecStatus, hloc]

/-- Settles O28: under STATUS `VALID_OUT` is the decoded validity; under MONTH the command is not legal. -/
theorem fdecStatusReadsValidity : Obligations.FdecStatusReadsValidity := by
  unfold Obligations.FdecStatusReadsValidity
  refine ⟨encodedAs_encode rfl, fun s => ⟨fun hloc => ?_, illegalAnswer_of_month (.inr rfl)⟩⟩
  refine answers_of_freePorts (exec_fdecStatus_of_status hloc) rfl rfl ⟨rfl, ?_⟩
  exact (statusDec_toNat _).trans (by rw [operandByte_toNat])

end Sys2Proof.Proofs
end

section
/-!
FRMENC and FRMDEC (41_frame_codec.md R186-R189): what they put on the ports, lane by lane the single-field operations, and
the round trip.
-/

namespace Sys2Proof.Proofs

open Sys2Proof Sys2Proof.Machine Sys2Proof.Claims

/-- What FRMENC puts on the output ports under either parameter (41_frame_codec.md R186). -/
def frmencOutputs (s : State) : Outputs :=
  { undriven s with
    raw := frameEnc s.inp.cal s.inp.fmt
    stOut :=
      match s.params.validityLoc with
      | .status => statusEnc s.inp.valid s.inp.stIn
      | .month => s.inp.stIn
    stWe :=
      match s.params.validityLoc with
      | .status => 1
      | .month => 0 }

theorem exec_frmenc (s : State) : exec .frmenc s = .next (respond s (frmencOutputs s)) := by
  simp only [exec, execFrmenc, frmencOutputs]
  cases s.params.validityLoc <;> rfl

/-- What FRMDEC puts on the output ports (41_frame_codec.md R187). -/
def frmdecOutputs (s : State) : Outputs :=
  { undriven s with
    cal := frameDec s.inp.raw
    fmtOut := (hourDec s.inp.raw.hour).2.1
    ampmOut := (hourDec s.inp.raw.hour).2.2
    covOut := (monthDec s.inp.raw.month).2
    validOut := validity s.params.validityLoc s.inp.raw.month s.inp.stIn }

theorem exec_frmdec (s : State) : exec .frmdec s = .next (respond s (frmdecOutputs s)) := rfl

theorem outPort_raw (o : Outputs) (k : Fin 8) : outPort o (.raw k) = (rawLane o.raw k).toNat := by
  fin_cases k <;> rfl

theorem getPort_raw (inp : Inputs) (k : Fin 8) : getPort inp (.raw k) = (rawLane inp.raw k).toNat := by
  fin_cases k <;> rfl

theorem frmencOutputs_lane (s : State) (k : Fin 8) : outPort (frmencOutputs s) (.raw k) = laneByte s.inp k :=
  (outPort_raw _ k).trans (frameEnc_lane_toNat s.inp k)

/-- The status byte and the write request of FRMENC, by the parameter. -/
theorem frmencOutputs_status (s : State) :
    match s.params.validityLoc with
    | .status =>
      (frmencOutputs s).stOut.toNat = statusByte s.inp.valid.toNat s.inp.stIn.toNat ∧ (frmencOutputs s).stWe = 1
    | .month => (frmencOutputs s).stOut = s.inp.stIn ∧ (frmencOutputs s).stWe = 0 := by
  cases hloc : s.params.validityLoc with
  | status => simp only [frmencOutputs, hloc, statusEnc_toNat, and_self]
  | month => simp only [frmencOutputs, hloc, and_self]

/-- Settles O29: the eight lanes of `frmencOutputs_lane` and the status byte. -/
theorem frmencEncodesTheFrame : Obligations.FrmencEncodesTheFrame := by
  unfold Obligations.FrmencEncodesTheFrame
  refine ⟨encodedAs_encode rfl, onlySelZero_of_no_field (by decide) (by decide), fun s => ?_⟩
  have hlane := frmencOutputs_lane s
  refine answers_of_freePorts (exec_frmenc s) rfl rfl ?_
  exact ⟨hlane 0, hlane 1, hlane 2, hlane 3, hlane 4, hlane 5, hlane 6, hlane 7, frmencOutputs_status s⟩

theorem validity_toNat (loc : ValidityLoc) (month status : Byte) :
    match loc with
    | .month => (validity loc month status).toNat = month.toNat / 128
    | .status => (validity loc month status).toNat = 1 - status.toNat / 128 := by
  cases loc with
  | month => exact covBit_toNat month
  | status => exact statusDec_toNat status

/-- Settles O30: each port holds what the decoder of its byte reads. -/
theorem frmdecDecodesTheFrame : Obligations.FrmdecDecodesTheFrame := by
  unfold Obligations.FrmdecDecodesTheFrame
  refine ⟨encodedAs_encode rfl, onlySelZero_of_no_field (by decide) (by decide), fun s => ?_⟩
  have hfield (b : Byte) := ofNat_bcdDec_toNat (w := 8) (Nat.le_refl 8) b
  have hhour := hourDec_ports (w := 8) (by decide) s.inp.raw.hour
  obtain ⟨hmonth, hcov⟩ := monthDec_ports (w := 8) (by decide) s.inp.raw.month
  refine answers_of_freePorts (exec_frmdec s) rfl rfl ?_
  exact ⟨rfl, hfield _, hfield _, hfield _, hfield _, hfield _, hfield _, hhour, hmonth, hcov, validity_toNat ..⟩

/-! Lanes (41_frame_codec.md R188). -/

/-- The number lane `k` decodes its byte to (41_frame_codec.md R167). -/
def laneDec (k : Fin 8) (b : Byte) : Nat :=
  match k with
  | 3 => (hourDec b).1
  | 6 => (monthDec b).1
  | _ => bcdDec b

theorem laneDec_le (k : Fin 8) (b : Byte) : laneDec k b ≤ 165 := by
  match k with
  | 3 => exact hourDec_fst_le b
  | 6 => exact bcdDec_le _
  | 0 | 1 | 2 | 4 | 5 | 7 => exact bcdDec_le b

theorem frmdecOutputs_lane (s : State) (k : Fin 8) :
    outPort (frmdecOutputs s) (calLane k) = (BitVec.ofNat 8 (laneDec k (rawLane s.inp.raw k))).toNat := by
  fin_cases k <;> rfl

/-- FDEC of lane `k` reads its operand byte as FRMDEC reads byte `k`, the flags of lanes 3 and 6 among it. -/
theorem exec_fdecLane (s : State) (k : Fin 8) :
    ∃ u, exec (fdecLane k) s = .next u ∧ u.out.y = BitVec.ofNat 32 (laneDec k (operandByte s)) ∧
      (k = 3 → u.out.fmtOut = (hourDec (operandByte s)).2.1 ∧ u.out.ampmOut = (hourDec (operandByte s)).2.2) ∧
      (k = 6 → u.out.covOut = (monthDec (operandByte s)).2 ∧
        (s.params.validityLoc = .month → u.out.validOut = covBit (operandByte s))) := by
  match k with
  | 3 => exact ⟨_, rfl, rfl, fun _ => ⟨rfl, rfl⟩, nofun⟩
  | 6 =>
    cases hloc : s.params.validityLoc with
    | month => exact ⟨_, exec_fdecMonth_of_month hloc, rfl, nofun, fun _ => ⟨rfl, fun _ => rfl⟩⟩
    | status => exact ⟨_, exec_fdecMonth_of_status hloc, rfl, nofun, fun _ => ⟨rfl, nofun⟩⟩
  | 0 | 1 | 2 | 4 | 5 | 7 => exact ⟨_, rfl, rfl, nofun, nofun⟩

theorem operandByte_of_byte (s : State) (b : Byte) :
    operandByte { s with inp := { s.inp with a := BitVec.ofNat 32 b.toNat } } = b := by
  refine BitVec.eq_of_toNat_eq ?_
  have hb := b.isLt
  rw [operandByte_toNat, lowByte, BitVec.toNat_ofNat]
  omega

/-- Settles O31: the lanes of FRMENC and of FENC hold the same number, packed from the lane's own ports; the lanes of
FRMDEC and of FDEC decode the same byte, to a number that fits either port. -/
theorem frameLanesAreTheFieldOperations : Obligations.FrameLanesAreTheFieldOperations := by
  unfold Obligations.FrameLanesAreTheFieldOperations
  refine ⟨fun s t k ht => ?_, fun s t k ht => ?_, fun s t inp k ht hports => ?_⟩
  · obtain rfl := Host.Outcome.next.inj ((exec_frmenc s).symm.trans ht)
    obtain ⟨u, hu, -, -, -, -, hy⟩ := answers_fencLane s k
    refine ⟨u, hu, ?_⟩
    rw [hy, Nat.mod_eq_of_lt (laneByte_lt s.inp k)]
    exact frmencOutputs_lane s k
  · obtain rfl := Host.Outcome.next.inj ((exec_frmdec s).symm.trans ht)
    rw [getPort_raw]
    obtain ⟨u, hu, hy, hhour, hmonth⟩ := exec_fdecLane
      { s with inp := { s.inp with a := BitVec.ofNat 32 (rawLane s.inp.raw k).toNat } } k
    rw [operandByte_of_byte] at hy hhour hmonth
    refine ⟨u, hu, ?_, ?_, ?_⟩
    · have hle := laneDec_le k (rawLane s.inp.raw k)
      rw [hy, respond_out, frmdecOutputs_lane, BitVec.toNat_ofNat, BitVec.toNat_ofNat]
      omega
    · rintro rfl
      obtain ⟨hfmt, hampm⟩ := hhour rfl
      exact ⟨hfmt.symm, hampm.symm⟩
    · rintro rfl
      obtain ⟨hcov, hvalid⟩ := hmonth rfl
      refine ⟨hcov.symm, fun hloc => ?_⟩
      rw [hvalid hloc]
      simp only [respond_out, frmdecOutputs, validity, hloc, rawLane]
  · obtain rfl := Host.Outcome.next.inj ((exec_frmenc s).symm.trans ht)
    refine ⟨_, exec_frmenc _, ?_⟩
    simp only [respond_out, frmencOutputs_lane]
    exact laneByte_congr hports

/-! The round trip (41_frame_codec.md R189). -/

theorem hourDec_hourEnc {c : CalendarValue} {fmt : Bit} (h : inDomain c fmt) :
    hourDec (hourEnc fmt c.hr c.ampm) = (c.hr.toNat, fmt, c.ampm) := by
  obtain ⟨-, -, -, hhour, -⟩ := h
  obtain rfl | rfl := BitVec.eq_zero_or_eq_one fmt
  · obtain ⟨hhr, hampm⟩ := hhour
    rw [hampm]
    exact hourDec_hourEnc_h24 hhr
  · obtain ⟨hlo, hhi⟩ := hhour
    exact hourDec_hourEnc_h12 hlo hhi c.ampm

theorem frameDec_frameEnc {c : CalendarValue} {fmt : Bit} (h : inDomain c fmt) :
    frameDec (frameEnc c fmt) =
      { hs := c.hs, sec := c.sec, min := c.min, hr := c.hr, wd := c.wd, day := c.day, mon := c.mon, yr := c.yr } := by
  have hhour := hourDec_hourEnc h
  obtain ⟨hhs, hsec, hmin, -, hwdlo, hwd, hdaylo, hday, hmonlo, hmon, hyr⟩ := h
  simp [frameDec, frameEnc, monthDec_monthEnc, bcdDec_encClamped, *]

/-- The validity FRMDEC reads from FRMENC's frame and status byte: the month byte's cov, or the encoded `VALID`. -/
theorem validity_frmencOutputs (s : State) :
    let v := validity s.params.validityLoc (frmencOutputs s).raw.month (frmencOutputs s).stOut
    match s.params.validityLoc with
    | .month => v = covBit (monthEnc s.inp.cal.mon s.inp.cal.cov)
    | .status => v = s.inp.valid := by
  cases hloc : s.params.validityLoc with
  | month => rfl
  | status => simp only [validity, frmencOutputs, hloc, statusDec_statusEnc]

/-- Settles O32: FRMDEC's ports hold what its decoders read from FRMENC's bytes, and each decoder undoes its encoder. -/
theorem frameRoundTrip : Obligations.FrameRoundTrip := by
  unfold Obligations.FrameRoundTrip
  intro s hdomain
  have hcal := frameDec_frameEnc hdomain
  have hhour := hourDec_hourEnc hdomain
  obtain ⟨-, -, -, -, -, -, -, -, hmonlo, hmon, -⟩ := hdomain
  have hcov : covBit (monthEnc s.inp.cal.mon s.inp.cal.cov) = s.inp.cal.cov :=
    congrArg Prod.snd (monthDec_monthEnc hmonlo hmon s.inp.cal.cov)
  have hvalid := validity_frmencOutputs s
  rw [hcov] at hvalid
  exact ⟨_, exec_frmenc s, _, exec_frmdec _, hcal, congrArg (·.2.1) hhour, congrArg (·.2.2) hhour, hcov, hvalid⟩

end Sys2Proof.Proofs
end

section
/-!
The calendar of the epoch converter in the statements' own terms (42_epoch_converter.md R221-R225), and the five
operations that answer with one of its functions (R229-R233).
-/

namespace Sys2Proof.Proofs

open Sys2Proof Sys2Proof.Machine Sys2Proof.Claims

/-! The model's functions. -/

theorem isLeap_eq_leapYear (y : Nat) : isLeap y = leapYear y := by
  rw [Bool.eq_iff_iff]
  simp [isLeap, leapYear]

theorem yearLen_eq_daysInYear (y : Nat) : yearLen y = daysInYear y := by
  rw [yearLen, daysInYear, isLeap_eq_leapYear]
  split <;> rfl

theorem monthLen_eq_daysInMonth {m : Nat} (hlo : 1 ≤ m) (hhi : m ≤ 12) (y : Nat) :
    monthLen y m = daysInMonth y m := by
  rw [monthLen, isLeap_eq_leapYear]
  cases h : leapYear y <;> interval_cases m <;> simp [daysInMonth, monthTable, h]

theorem bit_toNat_eq_ite (b : Bit) : b.toNat = if b = 1 then 1 else 0 := by
  revert b
  decide

theorem h12to24_eq_hour24 (rule : Hour12Rule) (h : Nat) (pm : Bit) : h12to24 rule h pm = hour24 rule h pm.toNat := by
  rw [bit_toNat_eq_ite]
  cases rule <;> simp [h12to24, hour24]

theorem h24to12_eq {h : Nat} (hh : h ≤ 23) : h24to12 h = (hour12 h, if 12 ≤ h then 1 else 0) := by
  interval_cases h <;> rfl

theorem hour12_le (h : Nat) : hour12 h ≤ 12 := by
  unfold hour12
  split <;> omega

theorem daysInMonth_le (y m : Nat) : daysInMonth y m ≤ 31 := by
  unfold daysInMonth
  split_ifs <;> decide

theorem hour24_le {h pm : Nat} (rule : Hour12Rule) (hh : h ≤ 255) (hpm : pm ≤ 1) : hour24 rule h pm ≤ 267 := by
  cases rule <;> simp only [hour24] <;> omega

/-! The operands. -/

theorem operandYear_eq_lowHalf (s : State) : operandYear s = lowHalf s := by
  simp [operandYear, lowHalf]

theorem operandPm_toNat (s : State) : (operandPm s).toNat = s.inp.b.toNat % 2 := by
  simp [operandPm]

theorem operandTz_eq_hours (s : State) : operandTz s = hours s.inp.tz := by
  rw [operandTz, hours, BitVec.toInt_eq_toNat_cond]
  split_ifs <;> omega

/-- A number that fits a port stands on it without a cut. -/
theorem ofNat_toNat_of_lt {w n : Nat} (hn : n < 2 ^ w) : (BitVec.ofNat w n).toNat = n := Nat.mod_eq_of_lt hn

/-! The operations. -/

/-- Settles O33: `isLeap` is the Gregorian rule, and `A[15:0]` the year it is asked for. -/
theorem leapIsTheGregorianRule : Obligations.LeapIsTheGregorianRule := by
  unfold Obligations.LeapIsTheGregorianRule
  refine ⟨encodedAs_encode rfl, onlySelZero_of_no_field (by decide) (by decide), fun s => answers_yIs rfl ?_⟩
  rw [isLeap_eq_leapYear, operandYear_eq_lowHalf]
  split <;> rfl

theorem exec_mdays_of_month {s : State} (h : 1 ≤ s.inp.b.toNat ∧ s.inp.b.toNat ≤ 12) :
    exec .mdays s = .next (respond s { undriven s with
      y := BitVec.ofNat 32 (monthLen (operandYear s) s.inp.b.toNat) }) := if_pos h

theorem exec_mdays_of_not_month {s : State} (h : ¬ (1 ≤ s.inp.b.toNat ∧ s.inp.b.toNat ≤ 12)) :
    exec .mdays s = .next (respond s (undriven s)) := if_neg h

/-- A command that drives nothing leaves every port at its draw (00_scope.md R16). -/
theorem answers_undriven {i : Instr} {s : State} (hexec : exec i s = .next (respond s (undriven s))) :
    Answers i s [] fun o => o.stWe = 0 := answers_of_freePorts hexec rfl rfl rfl

/-- Settles O34: the branch of the statement is the branch of the meaning. -/
theorem mdaysGivesTheMonthLength : Obligations.MdaysGivesTheMonthLength := by
  unfold Obligations.MdaysGivesTheMonthLength
  refine ⟨encodedAs_encode rfl, onlySelZero_of_no_field (by decide) (by decide), fun s => ?_⟩
  split
  next h =>
    have hle := daysInMonth_le (lowHalf s) s.inp.b.toNat
    refine answers_yIs (exec_mdays_of_month h) ?_
    rw [operandYear_eq_lowHalf, monthLen_eq_daysInMonth h.1 h.2, ofNat_toNat_of_lt (by omega)]
  next h => exact answers_undriven (exec_mdays_of_not_month h)

/-- Settles O35: a weekday is at most 7, whatever the day number. -/
theorem wdayIsTotal : Obligations.WdayIsTotal := by
  unfold Obligations.WdayIsTotal
  refine ⟨encodedAs_encode rfl, onlySelZero_of_no_field (by decide) (by decide), fun s => answers_yIs rfl ?_⟩
  exact ofNat_toNat_of_lt (show weekdayOf s.inp.a.toNat < 2 ^ 32 by unfold weekdayOf; omega)

/-- Settles O36: the converted hour is at most 267 under either rule, so `Y` holds it. -/
theorem h12to24UnderEitherRule : Obligations.H12to24UnderEitherRule := by
  unfold Obligations.H12to24UnderEitherRule
  refine ⟨encodedAs_encode rfl, onlySelZero_of_no_field (by decide) (by decide), fun s => answers_yIs rfl ?_⟩
  have hpm : s.inp.b.toNat % 2 ≤ 1 := by omega
  have hle := hour24_le s.params.hour12Rule (Nat.le_of_lt_succ (lowByte_lt s)) hpm
  rw [h12to24_eq_hour24, operandByte_toNat, operandPm_toNat, ofNat_toNat_of_lt (by omega)]

theorem exec_h24to12_of_le {s : State} (h : lowByte s ≤ 23) :
    exec .h24to12 s = .next (respond s { undriven s with
      y := BitVec.ofNat 32 (hour12 (lowByte s))
      ampmOut := if 12 ≤ lowByte s then 1 else 0 }) := by
  simp only [exec, execH24to12, operandByte_toNat, h24to12_eq h, if_pos h]

theorem exec_h24to12_of_not_le {s : State} (h : ¬ lowByte s ≤ 23) :
    exec .h24to12 s = .next (respond s (undriven s)) := by
  simp only [exec, execH24to12, operandByte_toNat, if_neg h]

/-- Settles O37: the branch of the statement is the branch of the meaning. -/
theorem h24to12WithinTheDay : Obligations.H24to12WithinTheDay := by
  unfold Obligations.H24to12WithinTheDay
  refine ⟨encodedAs_encode rfl, onlySelZero_of_no_field (by decide) (by decide), fun s => ?_⟩
  split
  next h =>
    have hle := hour12_le (lowByte s)
    refine answers_of_freePorts (exec_h24to12_of_le h) rfl rfl ⟨⟨rfl, ofNat_toNat_of_lt (by omega)⟩, ?_⟩
    exact apply_ite BitVec.toNat _ _ _
  next h => exact answers_undriven (exec_h24to12_of_not_le h)

end Sys2Proof.Proofs
end

section
/-!
Dates and day numbers: how many days stand before a year and a month, that a day number has one date, and that the sums
of toEpoch and the loops of fromEpoch are that date (42_epoch_converter.md R226, R228).
-/

namespace Sys2Proof.Proofs

open Sys2Proof Sys2Proof.Machine Sys2Proof.Claims

/-! Days before a year and before a month. -/

theorem daysBeforeYear_epoch : daysBeforeYear 1970 = 0 := rfl

theorem daysBeforeYear_succ {y : Nat} (hy : 1970 ≤ y) : daysBeforeYear (y + 1) = daysBeforeYear y + daysInYear y := by
  have hlen : y + 1 - 1970 = (y - 1970) + 1 := by omega
  have hlast : 1970 + (y - 1970) = y := by omega
  rw [daysBeforeYear, hlen, List.range'_1_concat, List.map_append, List.sum_append, hlast]
  simp [daysBeforeYear]

theorem daysBeforeYear_mono : Monotone daysBeforeYear := by
  refine monotone_nat_of_le_succ fun y => ?_
  by_cases hy : 1970 ≤ y
  · rw [daysBeforeYear_succ hy]
    exact Nat.le_add_right _ _
  · have hlen : y - 1970 = 0 := by omega
    simp [daysBeforeYear, hlen]

theorem daysBeforeMonth_one (y : Nat) : daysBeforeMonth y 1 = 0 := rfl

theorem daysBeforeMonth_succ {m : Nat} (hm : 1 ≤ m) (y : Nat) :
    daysBeforeMonth y (m + 1) = daysBeforeMonth y m + daysInMonth y m := by
  have hlen : m + 1 - 1 = (m - 1) + 1 := by omega
  have hlast : 1 + (m - 1) = m := by omega
  rw [daysBeforeMonth, hlen, List.range'_1_concat, List.map_append, List.sum_append, hlast]
  simp [daysBeforeMonth]

theorem daysBeforeMonth_mono (y : Nat) : Monotone (daysBeforeMonth y) := by
  refine monotone_nat_of_le_succ fun m => ?_
  cases m with
  | zero => exact Nat.le_refl 0
  | succ k =>
    rw [daysBeforeMonth_succ (Nat.le_add_left 1 k)]
    exact Nat.le_add_right _ _

/-- Twelve months make a year. -/
theorem daysBeforeMonth_thirteen (y : Nat) : daysBeforeMonth y 13 = daysInYear y := by
  rw [daysInYear]
  cases h : leapYear y <;> simp [daysBeforeMonth, daysInMonth, List.range', h]

theorem daysBeforeMonth_add_le {y m : Nat} (hlo : 1 ≤ m) (hhi : m ≤ 12) :
    daysBeforeMonth y m + daysInMonth y m ≤ daysInYear y := by
  rw [← daysBeforeMonth_succ hlo, ← daysBeforeMonth_thirteen]
  exact daysBeforeMonth_mono y (by omega)

theorem le_daysInYear (y : Nat) : 365 ≤ daysInYear y := by
  unfold daysInYear
  split <;> decide

/-- A number lies between two successive values of a monotone sequence in one place only. -/
theorem monotone_place_unique {f : Nat → Nat} (hf : Monotone f) {a b n : Nat} (ha : f a ≤ n) (ha' : n < f (a + 1))
    (hb : f b ≤ n) (hb' : n < f (b + 1)) : a = b := by
  by_contra hab
  exact Set.disjoint_left.mp (hf.pairwise_disjoint_on_Ico_succ hab) ⟨ha, ha'⟩ ⟨hb, hb'⟩

/-! Dates. -/

/-- Day `n`, counted from 1970-01-01, is the `d`th of month `m` of year `y`. -/
structure IsDate (n y m d : Nat) : Prop where
  epoch_le : 1970 ≤ y
  month_ge : 1 ≤ m
  month_le : m ≤ 12
  day_ge : 1 ≤ d
  day_le : d ≤ daysInMonth y m
  sum_eq : daysBeforeYear y + daysBeforeMonth y m + (d - 1) = n

/-- A day lies in its year. -/
theorem IsDate.lt_nextYear {n y m d : Nat} (h : IsDate n y m d) : n < daysBeforeYear (y + 1) := by
  obtain ⟨hy, hmlo, hmhi, hdlo, hdhi, rfl⟩ := h
  have := daysBeforeMonth_add_le (y := y) hmlo hmhi
  rw [daysBeforeYear_succ hy]
  omega

/-- A day number has one date. -/
theorem IsDate.unique {n y m d y' m' d' : Nat} (h : IsDate n y m d) (h' : IsDate n y' m' d') :
    y = y' ∧ m = m' ∧ d = d' := by
  have hnext := h.lt_nextYear
  have hnext' := h'.lt_nextYear
  obtain ⟨-, hmlo, -, hdlo, hdhi, hsum⟩ := h
  obtain ⟨-, hmlo', -, hdlo', hdhi', hsum'⟩ := h'
  obtain rfl := monotone_place_unique daysBeforeYear_mono (by omega) hnext (by omega) hnext'
  have hm := daysBeforeMonth_succ hmlo y
  have hm' := daysBeforeMonth_succ hmlo' y
  obtain rfl := monotone_place_unique (n := n - daysBeforeYear y) (daysBeforeMonth_mono y) (a := m) (b := m')
    (by omega) (by omega) (by omega) (by omega)
  exact ⟨rfl, rfl, by omega⟩

/-! The loops of fromEpoch. -/

/-- The year loop, when its rounds are enough, stops at the year the day lies in and leaves the day of that year. -/
theorem yearLoop_spec {fuel y d : Nat} (hy : 1970 ≤ y) (hfuel : d < 365 * fuel) :
    1970 ≤ (yearLoop fuel y d).1 ∧ (yearLoop fuel y d).2 < daysInYear (yearLoop fuel y d).1 ∧
      daysBeforeYear (yearLoop fuel y d).1 + (yearLoop fuel y d).2 = daysBeforeYear y + d := by
  induction fuel generalizing y d with
  | zero => omega
  | succ fuel ih =>
    rw [yearLoop, yearLen_eq_daysInYear]
    split
    next hle =>
      have hlen := le_daysInYear y
      obtain ⟨hge, hlt, hsum⟩ := ih (y := y + 1) (d := d - daysInYear y) (by omega) (by omega)
      refine ⟨hge, hlt, ?_⟩
      rw [hsum, daysBeforeYear_succ hy]
      omega
    next hlt => exact ⟨hy, Nat.lt_of_not_le hlt, rfl⟩

/-- The month loop, from a month of a year the day lies in, stops at the month the day lies in and leaves the day of
that month. -/
theorem monthLoop_spec {y fuel m d : Nat} (hm : 1 ≤ m) (hfuel : m + fuel = 13)
    (hd : daysBeforeMonth y m + d < daysInYear y) :
    1 ≤ (monthLoop y fuel m d).1 ∧ (monthLoop y fuel m d).1 ≤ 12 ∧
      (monthLoop y fuel m d).2 < daysInMonth y (monthLoop y fuel m d).1 ∧
      daysBeforeMonth y (monthLoop y fuel m d).1 + (monthLoop y fuel m d).2 = daysBeforeMonth y m + d := by
  induction fuel generalizing m d with
  | zero =>
    obtain rfl : m = 13 := hfuel
    rw [daysBeforeMonth_thirteen] at hd
    omega
  | succ fuel ih =>
    rw [monthLoop, monthLen_eq_daysInMonth hm (by omega)]
    split
    next hle =>
      have hsucc := daysBeforeMonth_succ hm y
      obtain ⟨hlo, hhi, hlt, hsum⟩ := ih (m := m + 1) (d := d - daysInMonth y m) (by omega) (by omega) (by omega)
      exact ⟨hlo, hhi, hlt, by omega⟩
    next hlt => exact ⟨hm, by omega, Nat.lt_of_not_le hlt, rfl⟩

/-- The year fromEpoch counts day `n` to, and the days left of it (42_epoch_converter.md R228 step 5). -/
def yearSplit (n : Nat) : Nat × Nat := yearLoop (n / 365 + 1) epochYear n

/-- The month fromEpoch counts day `n` to, and the days left of it (42_epoch_converter.md R228 step 6). -/
def monthSplit (n : Nat) : Nat × Nat := monthLoop (yearSplit n).1 12 1 (yearSplit n).2

theorem yearSplit_spec (n : Nat) :
    1970 ≤ (yearSplit n).1 ∧ (yearSplit n).2 < daysInYear (yearSplit n).1 ∧
      daysBeforeYear (yearSplit n).1 + (yearSplit n).2 = n := by
  have hloop := yearLoop_spec (fuel := n / 365 + 1) (Nat.le_refl 1970) (show n < 365 * (n / 365 + 1) by omega)
  rwa [daysBeforeYear_epoch, Nat.zero_add] at hloop

theorem monthSplit_spec (n : Nat) :
    1 ≤ (monthSplit n).1 ∧ (monthSplit n).1 ≤ 12 ∧ (monthSplit n).2 < daysInMonth (yearSplit n).1 (monthSplit n).1 ∧
      daysBeforeMonth (yearSplit n).1 (monthSplit n).1 + (monthSplit n).2 = (yearSplit n).2 := by
  obtain ⟨-, hday, -⟩ := yearSplit_spec n
  have hloop := monthLoop_spec (fuel := 12) (d := (yearSplit n).2) (Nat.le_refl 1) rfl
    (by rwa [daysBeforeMonth_one, Nat.zero_add])
  rwa [daysBeforeMonth_one, Nat.zero_add] at hloop

/-- Where the two loops stop is the date of the day. -/
theorem isDate_split (n : Nat) : IsDate n (yearSplit n).1 (monthSplit n).1 ((monthSplit n).2 + 1) := by
  obtain ⟨hy, -, hysum⟩ := yearSplit_spec n
  obtain ⟨hlo, hhi, hmonth, hmsum⟩ := monthSplit_spec n
  exact ⟨hy, hlo, hhi, Nat.le_add_left 1 _, hmonth, by omega⟩

/-! The sum of toEpoch. -/

/-- The two year terms of toEpoch are the days before the year. -/
theorem leapYears_eq_daysBeforeYear (n : Nat) : n * 365 + leapYears n = daysBeforeYear (1970 + n) := by
  induction n with
  | zero => rfl
  | succ n ih =>
    have hyear := daysBeforeYear_succ (Nat.le_add_right 1970 n)
    rw [← ih, ← yearLen_eq_daysInYear, yearLen, Nat.add_assoc] at hyear
    rw [leapYears, epochYear, hyear]
    ring

theorem monthDays_eq_daysBeforeMonth {n : Nat} (hn : n ≤ 12) (y : Nat) :
    monthDays y n = daysBeforeMonth y (n + 1) := by
  induction n with
  | zero => rfl
  | succ n ih =>
    have hpos : 1 ≤ n + 1 := Nat.le_add_left 1 n
    rw [monthDays, ih (Nat.le_of_succ_le hn), monthLen_eq_daysInMonth hpos hn, daysBeforeMonth_succ hpos]

theorem toEpochHour_eq (rule : Hour12Rule) (c : CalendarValue) (fmt : Bit) :
    toEpochHour rule c fmt = if fmt = 1 then hour24 rule c.hr.toNat c.ampm.toNat else c.hr.toNat := by
  rw [toEpochHour, h12to24_eq_hour24]
  rfl

/-- The seconds of `CAL_IN`'s time within its day, as toEpoch counts them (42_epoch_converter.md R226 step 6). -/
def timeOfDay (rule : Hour12Rule) (c : CalendarValue) (fmt : Bit) : Nat :=
  3600 * toEpochHour rule c fmt + 60 * c.min.toNat + c.sec.toNat

theorem epochSum_eq (rule : Hour12Rule) (c : CalendarValue) (fmt : Bit) (tz : Int) :
    epochSum rule c fmt tz = 86400 * dayNumber c + timeOfDay rule c fmt - 3600 * tz := by
  rw [epochSum, timeOfDay, toEpochHour_eq]

theorem toEpochSum_eq_epochSum {c : CalendarValue} (hlo : 1 ≤ c.mon.toNat) (hhi : c.mon.toNat ≤ 12)
    (rule : Hour12Rule) (fmt : Bit) (tz : Int) : toEpochSum rule c fmt tz = epochSum rule c fmt tz := by
  have habs : 2000 + c.yr.toNat = 1970 + (c.yr.toNat + 30) := by omega
  have hmon : c.mon.toNat = c.mon.toNat - 1 + 1 := by omega
  have hmonth : daysBeforeMonth (1970 + (c.yr.toNat + 30)) c.mon.toNat =
      monthDays (1970 + (c.yr.toNat + 30)) (c.mon.toNat - 1) := by
    rw [monthDays_eq_daysBeforeMonth (by omega), ← hmon]
  rw [epochSum_eq, dayNumber, timeOfDay, habs, hmonth, ← leapYears_eq_daysBeforeYear]
  simp only [toEpochSum, epochYear, yearOffset, secsPerDay, secsPerHour]
  push_cast
  ring

end Sys2Proof.Proofs
end

section
/-!
TOEPOCH and FROMEPOCH (42_epoch_converter.md R226, R228, R234, R235): what each puts on the output ports, in the terms
of dates and day numbers.
-/

namespace Sys2Proof.Proofs

open Sys2Proof Sys2Proof.Machine Sys2Proof.Claims

/-! TOEPOCH. -/

theorem exec_toepoch_of_month {s : State} (hlo : 1 ≤ s.inp.cal.mon.toNat) (hhi : s.inp.cal.mon.toNat ≤ 12) :
    exec .toepoch s = .next (respond s { undriven s with
      y := BitVec.ofInt 32 (epochSum s.params.hour12Rule s.inp.cal s.inp.fmt (hours s.inp.tz)) }) := by
  have hin : ¬ (s.inp.cal.mon.toNat < 1 ∨ s.inp.cal.mon.toNat > 12) := by omega
  simp only [exec, execToepoch, toEpoch, if_neg hin, toEpochSum_eq_epochSum hlo hhi, operandTz_eq_hours]

theorem exec_toepoch_of_not_month {s : State} (h : ¬ (1 ≤ s.inp.cal.mon.toNat ∧ s.inp.cal.mon.toNat ≤ 12)) :
    exec .toepoch s = .next (respond s (undriven s)) := by
  have hout : s.inp.cal.mon.toNat < 1 ∨ s.inp.cal.mon.toNat > 12 := by omega
  simp only [exec, execToepoch, toEpoch, if_pos hout]

theorem ofInt32_toNat (z : Int) : ((BitVec.ofInt 32 z).toNat : Int) = z % 2 ^ 32 := by
  rw [BitVec.toNat_ofInt]
  omega

/-- Settles O38: the branch of the statement is the branch of the meaning, and `toEpochSum_eq_epochSum`. -/
theorem toepochSumsTheSteps : Obligations.ToepochSumsTheSteps := by
  unfold Obligations.ToepochSumsTheSteps
  refine ⟨encodedAs_encode rfl, onlySelZero_of_no_field (by decide) (by decide), fun s => ?_⟩
  split
  next h => exact answers_of_freePorts (exec_toepoch_of_month h.1 h.2) rfl rfl ⟨rfl, ofInt32_toNat _⟩
  next h => exact answers_undriven (exec_toepoch_of_not_month h)

/-! FROMEPOCH. -/

/-- The two-digit year of an absolute year, where it has one (42_epoch_converter.md R228). -/
def twoDigitYear (y : Nat) : Option Nat := if 2000 ≤ y ∧ y ≤ 2099 then some (y - 2000) else none

/-- The fields of local time `loc` on the `d`th of month `m`, with the year field `yr` (42_epoch_converter.md R228). -/
def dateFields (loc : Nat) (fmt : Bit) (yr : Option Nat) (m d : Nat) : EpochFields where
  sec := loc % 60
  min := loc / 60 % 60
  hr := if fmt = 1 then hour12 (loc / 3600 % 24) else loc / 3600 % 24
  ampm := if fmt = 1 ∧ 12 ≤ loc / 3600 % 24 then 1 else 0
  wd := weekdayOf (loc / 86400)
  day := d
  mon := m
  yr := yr

theorem twoDigitYear_of_mem {y : Nat} (h : 2000 ≤ y ∧ y ≤ 2099) : twoDigitYear y = some (y - 2000) := if_pos h

theorem twoDigitYear_of_not_mem {y : Nat} (h : ¬ (2000 ≤ y ∧ y ≤ 2099)) : twoDigitYear y = none := if_neg h

/-- The year field from the count of whole years since 1970 (42_epoch_converter.md R228 step 6). -/
theorem twoDigitYear_eq_blocks (y : Nat) :
    twoDigitYear y = if 30 ≤ y - epochYear ∧ y - epochYear ≤ 129 then some (y - epochYear - yearOffset) else none := by
  have hiff : 2000 ≤ y ∧ y ≤ 2099 ↔ 30 ≤ y - epochYear ∧ y - epochYear ≤ 129 := by unfold epochYear; omega
  have hvalue : y - 2000 = y - epochYear - yearOffset := by unfold epochYear yearOffset; omega
  rw [twoDigitYear, hvalue]
  exact if_congr hiff rfl rfl

/-- The hour and the AM/PM bit fromEpoch gives (42_epoch_converter.md R228 step 3). -/
theorem formatted_hour {h : Nat} (hh : h ≤ 23) (fmt : Bit) :
    (if fmt = fmtH12 then h24to12 h else (h, 0)) =
      (if fmt = 1 then hour12 h else h, if fmt = 1 ∧ 12 ≤ h then 1 else 0) := by
  rw [h24to12_eq hh]
  obtain rfl | rfl := BitVec.eq_zero_or_eq_one fmt
  · rfl
  · simp [fmtH12]

theorem localFields_of_date {loc y m d : Nat} (h : IsDate (loc / 86400) y m d) (fmt : Bit) :
    localFields loc fmt = dateFields loc fmt (twoDigitYear y) m d := by
  obtain ⟨rfl, rfl, rfl⟩ := h.unique (isDate_split _)
  have hhour := formatted_hour (h := loc / 3600 % 24) (by omega) fmt
  rw [dateFields, twoDigitYear_eq_blocks]
  simp only [localFields, hhour]
  rfl

theorem fromEpoch_of_local {e loc : Nat} {tz : Int} (hloc : (e : Int) + 3600 * tz = loc) (hlt : loc < 2 ^ 32)
    (fmt : Bit) : fromEpoch e fmt tz = some (localFields loc fmt) := by
  have hcomm : (e : Int) + tz * secsPerHour = loc := by rw [← hloc, Int.mul_comm tz]; rfl
  have hin : ¬ ((loc : Int) < 0 ∨ 2 ^ 32 ≤ (loc : Int)) := by omega
  simp only [fromEpoch, hcomm, if_neg hin, Int.toNat_natCast]

theorem fromEpoch_of_outside {e : Nat} {tz : Int}
    (h : (e : Int) + 3600 * tz < 0 ∨ 2 ^ 32 ≤ (e : Int) + 3600 * tz) (fmt : Bit) : fromEpoch e fmt tz = none := by
  have hcomm : tz * secsPerHour = 3600 * tz := Int.mul_comm tz 3600
  simp only [fromEpoch, hcomm, if_pos h]

/-- What FROMEPOCH puts on the output ports when its fields are `r` (42_epoch_converter.md R235). -/
def fromepochOutputs (s : State) (r : EpochFields) : Outputs :=
  { undriven s with cal := driveCalendar (undriven s).cal r, ampmOut := r.ampm }

theorem exec_fromepoch_of_date {s : State} {loc y m d : Nat}
    (hloc : (s.inp.a.toNat : Int) + 3600 * hours s.inp.tz = loc) (hlt : loc < 2 ^ 32)
    (hdate : IsDate (loc / 86400) y m d) :
    exec .fromepoch s = .next (respond s (fromepochOutputs s (dateFields loc s.inp.fmt (twoDigitYear y) m d))) := by
  simp only [exec, execFromepoch, operandScalar, operandTz_eq_hours, fromEpoch_of_local hloc hlt,
    localFields_of_date hdate, fromepochOutputs]

theorem exec_fromepoch_of_outside {s : State}
    (h : (s.inp.a.toNat : Int) + 3600 * hours s.inp.tz < 0 ∨ 2 ^ 32 ≤ (s.inp.a.toNat : Int) + 3600 * hours s.inp.tz) :
    exec .fromepoch s = .next (respond s (undriven s)) := by
  simp only [exec, execFromepoch, operandScalar, operandTz_eq_hours, fromEpoch_of_outside h]

/-- FROMEPOCH inside 32 bits answers with the fields of the local date, whatever is claimed of them. -/
theorem answers_fromepoch {s : State} {loc y m d : Nat} {P : Outputs → Prop}
    (hloc : (s.inp.a.toNat : Int) + 3600 * hours s.inp.tz = loc) (hlt : loc < 2 ^ 32)
    (hdate : IsDate (loc / 86400) y m d)
    (hP : P (fromepochOutputs s (dateFields loc s.inp.fmt (twoDigitYear y) m d))) :
    Answers .fromepoch s
      ((if 2000 ≤ y ∧ y ≤ 2099 then [.calYr] else []) ++
        [.calSec, .calMin, .calHr, .calWd, .calDay, .calMon, .ampmOut]) P := by
  have hexec := exec_fromepoch_of_date hloc hlt hdate
  by_cases hy : 2000 ≤ y ∧ y ≤ 2099
  · rw [twoDigitYear_of_mem hy] at hexec hP
    rw [if_pos hy]
    exact answers_of_freePorts hexec rfl rfl hP
  · rw [twoDigitYear_of_not_mem hy] at hexec hP
    rw [if_neg hy]
    exact answers_of_freePorts hexec rfl rfl hP

theorem driveCalendar_dateFields_yr_toNat (c : CalendarOut) {loc y m d : Nat} {fmt : Bit} (hy : 2000 ≤ y ∧ y ≤ 2099) :
    (driveCalendar c (dateFields loc fmt (twoDigitYear y) m d)).yr.toNat = y - 2000 := by
  rw [twoDigitYear_of_mem hy]
  exact ofNat_toNat_of_lt (w := 8) (by omega)

/-- The calendar ports of FROMEPOCH as numbers: every field of a date fits its port. -/
theorem driveCalendar_dateFields_toNat (c : CalendarOut) {n loc y m d : Nat} (hdate : IsDate n y m d) (fmt : Bit)
    (yr : Option Nat) :
    let o := driveCalendar c (dateFields loc fmt yr m d)
    o.sec.toNat = loc % 60 ∧ o.min.toNat = loc / 60 % 60 ∧
      o.hr.toNat = (if fmt = 1 then hour12 (loc / 3600 % 24) else loc / 3600 % 24) ∧
      o.wd.toNat = weekdayOf (loc / 86400) ∧ o.day.toNat = d ∧ o.mon.toNat = m := by
  have hday := hdate.day_le.trans (daysInMonth_le y m)
  have hmon := hdate.month_le
  have hwd : weekdayOf (loc / 86400) ≤ 7 := by unfold weekdayOf; omega
  have hhr : (if fmt = 1 then hour12 (loc / 3600 % 24) else loc / 3600 % 24) ≤ 23 := by
    have := hour12_le (loc / 3600 % 24)
    split <;> omega
  have hfits {k : Nat} (hk : k < 256) : (BitVec.ofNat 8 k).toNat = k := ofNat_toNat_of_lt hk
  exact ⟨hfits (k := loc % 60) (by omega), hfits (k := loc / 60 % 60) (by omega),
    hfits (Nat.lt_of_le_of_lt hhr (by decide)), hfits (Nat.lt_of_le_of_lt hwd (by decide)),
    hfits (k := d) (by omega), hfits (k := m) (by omega)⟩

/-- Settles O39: outside 32 bits nothing is driven; inside, the date is the one the loops find, and `YR` is driven where
the year has two digits. -/
theorem fromepochFindsTheDate : Obligations.FromepochFindsTheDate := by
  unfold Obligations.FromepochFindsTheDate
  refine ⟨encodedAs_encode rfl, onlySelZero_of_no_field (by decide) (by decide), fun s => ?_⟩
  intro loc
  split
  next h => exact answers_undriven (exec_fromepoch_of_outside h)
  next h =>
    have hloc : (s.inp.a.toNat : Int) + 3600 * hours s.inp.tz = loc.toNat := by omega
    have hdate := isDate_split (loc.toNat / 86400)
    obtain ⟨hsec, hmin, hhr, hwd, hday, hmon⟩ := driveCalendar_dateFields_toNat (undriven s).cal hdate s.inp.fmt _
    refine ⟨_, _, _, hdate.epoch_le, hdate.month_ge, hdate.month_le, hdate.day_ge, hdate.day_le, hdate.sum_eq,
      answers_fromepoch hloc (by omega) hdate
        ⟨rfl, hsec, hmin, ?_, hwd, hday, hmon, driveCalendar_dateFields_yr_toNat _⟩⟩
    split
    next hfmt =>
      rw [if_pos hfmt] at hhr
      refine ⟨hhr, ?_⟩
      simp only [fromepochOutputs, dateFields, hfmt, true_and, apply_ite BitVec.toNat]
      rfl
    next hfmt =>
      rw [if_neg hfmt] at hhr
      exact ⟨hhr, if_neg fun h => hfmt h.1⟩

end Sys2Proof.Proofs
end

section
/-!
The laws that join toEpoch and fromEpoch: the ranges of the unwrapped sum (42_epoch_converter.md R238) and the
round-trip contract (R237).
-/

namespace Sys2Proof.Proofs

open Sys2Proof Sys2Proof.Machine Sys2Proof.Claims

/-! Bounds of the terms of the sum. -/

theorem daysBeforeYear_2000 : daysBeforeYear 2000 = 10957 := by decide +kernel

theorem daysBeforeYear_2100 : daysBeforeYear 2100 = 47482 := by decide +kernel

theorem daysBeforeMonth_le {m : Nat} (hm : m ≤ 12) (y : Nat) : daysBeforeMonth y m + 31 ≤ daysInYear y := by
  have hmono := daysBeforeMonth_mono y hm
  have hlast := daysBeforeMonth_succ (m := 12) (by decide) y
  rw [daysBeforeMonth_thirteen] at hlast
  have hdecember : daysInMonth y 12 = 31 := rfl
  omega

/-- No `CAL_IN` lies before the day before 2000-01-01, which is `DAY` 0 of its month. -/
theorem le_dayNumber (c : CalendarValue) : 10956 ≤ dayNumber c := by
  have hyear := daysBeforeYear_mono (Nat.le_add_right 2000 c.yr.toNat)
  rw [daysBeforeYear_2000] at hyear
  unfold dayNumber
  omega

/-- Up to `YR` 99 no month begins after the 1st of December 2099, day 47451. -/
theorem dayNumber_le {c : CalendarValue} (hyr : c.yr.toNat ≤ 99) (hmon : c.mon.toNat ≤ 12) :
    dayNumber c ≤ 47451 + (c.day.toNat - 1) := by
  have hyear := daysBeforeYear_mono (show 2000 + c.yr.toNat + 1 ≤ 2100 by omega)
  have hmonth := daysBeforeMonth_le hmon (2000 + c.yr.toNat)
  rw [daysBeforeYear_2100, daysBeforeYear_succ (by omega)] at hyear
  unfold dayNumber
  omega

theorem toEpochHour_le (rule : Hour12Rule) (c : CalendarValue) (fmt : Bit) : toEpochHour rule c fmt ≤ 267 := by
  have hhr := c.hr.isLt
  rw [toEpochHour_eq]
  split
  · exact hour24_le rule (Nat.le_of_lt_succ hhr) (Nat.le_of_lt_succ c.ampm.isLt)
  · omega

theorem toEpochHour_of_h12 {fmt : Bit} (hfmt : fmt = 1) (rule : Hour12Rule) (c : CalendarValue) :
    toEpochHour rule c fmt = hour24 rule c.hr.toNat c.ampm.toNat := by
  rw [toEpochHour_eq, if_pos hfmt]

theorem toEpochHour_of_h24 {fmt : Bit} (hfmt : fmt ≠ 1) (rule : Hour12Rule) (c : CalendarValue) :
    toEpochHour rule c fmt = c.hr.toNat := by
  rw [toEpochHour_eq, if_neg hfmt]

/-! Contract values. -/

/-- The one case in which LITERAL breaks the contract: hour 12 in H12 (42_epoch_converter.md R224). -/
def LiteralNoon (rule : Hour12Rule) (c : CalendarValue) (fmt : Bit) : Prop :=
  rule = .literal ∧ fmt = 1 ∧ c.hr = 12

theorem isDate_of_contract {c : CalendarValue} {fmt : Bit} (h : contractValue c fmt) :
    ∃ n : Nat, dayNumber c = n ∧ IsDate n (2000 + c.yr.toNat) c.mon.toNat c.day.toNat := by
  obtain ⟨-, hmlo, hmhi, hdlo, hdhi, -⟩ := h
  refine ⟨_, ?_, by omega, hmlo, hmhi, hdlo, hdhi, rfl⟩
  unfold dayNumber
  omega

theorem IsDate.day_range {n y m d : Nat} (h : IsDate n y m d) (hy : 2000 ≤ y ∧ y ≤ 2099) : 10957 ≤ n ∧ n ≤ 47481 := by
  have hfirst := daysBeforeYear_mono hy.1
  have hlast := daysBeforeYear_mono (show y + 1 ≤ 2100 by omega)
  have hnext := h.lt_nextYear
  have hsum := h.sum_eq
  rw [daysBeforeYear_2000] at hfirst
  rw [daysBeforeYear_2100] at hlast
  omega

/-- In H12 the hour a contract value is converted to under CONTRACT is an hour of the day that formats back to it. -/
theorem hour24_contract_of_h12 {h pm : Nat} (hlo : 1 ≤ h) (hhi : h ≤ 12) (hpm : pm ≤ 1) :
    hour24 .contract h pm ≤ 23 ∧ hour12 (hour24 .contract h pm) = h ∧ (12 ≤ hour24 .contract h pm ↔ pm = 1) := by
  have hconvert : hour24 .contract h pm = h % 12 + 12 * pm := rfl
  refine ⟨by omega, ?_, by omega⟩
  rw [hconvert, hour12]
  split <;> omega

/-- The two rules agree for the hours 1 to 11 (42_epoch_converter.md R224). -/
theorem hour24_eq_contract {rule : Hour12Rule} {h pm : Nat} (hh : rule = .literal → h < 12) :
    hour24 rule h pm = hour24 .contract h pm := by
  cases rule with
  | contract => rfl
  | literal => simp only [hour24, Nat.mod_eq_of_lt (hh rfl)]

theorem ite_eq_bit {p : Prop} [Decidable p] {b : Bit} (h : p ↔ b.toNat = 1) : (if p then 1 else 0) = b := by
  obtain rfl | rfl := BitVec.eq_zero_or_eq_one b
  · exact if_neg (h.not.mpr (by decide))
  · exact if_pos (h.mpr rfl)

/-- Outside `LiteralNoon`, the hour of a contract value is an hour of the day, and fromEpoch formats it back. -/
theorem toEpochHour_of_contract {c : CalendarValue} {fmt : Bit} {rule : Hour12Rule} (h : contractValue c fmt)
    (hgood : ¬ LiteralNoon rule c fmt) :
    toEpochHour rule c fmt ≤ 23 ∧
      (if fmt = 1 then hour12 (toEpochHour rule c fmt) else toEpochHour rule c fmt) = c.hr.toNat ∧
      (if fmt = 1 ∧ 12 ≤ toEpochHour rule c fmt then 1 else 0) = c.ampm := by
  obtain ⟨-, -, -, -, -, -, -, hhour, -⟩ := h
  obtain rfl | (hfmt : fmt = 1) := BitVec.eq_zero_or_eq_one fmt
  · obtain ⟨hhr, hampm⟩ := hhour
    rw [toEpochHour_of_h24 (by decide)]
    exact ⟨hhr, rfl, hampm.symm⟩
  · rw [if_neg (by rw [hfmt]; decide)] at hhour
    obtain ⟨hlo, hhi⟩ := hhour
    have hrule : rule = .literal → c.hr.toNat < 12 := fun hliteral =>
      lt_of_le_of_ne hhi fun hnoon => hgood ⟨hliteral, hfmt, BitVec.eq_of_toNat_eq hnoon⟩
    obtain ⟨hle, hback, hpm⟩ := hour24_contract_of_h12 hlo hhi (Nat.le_of_lt_succ c.ampm.isLt)
    rw [toEpochHour_of_h12 hfmt, hour24_eq_contract hrule, if_pos hfmt]
    exact ⟨hle, hback, ite_eq_bit ((and_iff_right hfmt).trans hpm)⟩

/-- In `LiteralNoon`, midnight is taken for noon and noon for the next midnight. -/
theorem toEpochHour_of_literalNoon {c : CalendarValue} {fmt : Bit} {rule : Hour12Rule} (h : LiteralNoon rule c fmt) :
    toEpochHour rule c fmt = 12 + 12 * c.ampm.toNat := by
  obtain ⟨rfl, rfl, hhr⟩ := h
  rw [toEpochHour_of_h12 rfl, hour24, hhr]
  rfl

theorem toEpochHour_le_of_contract {c : CalendarValue} {fmt : Bit} (h : contractValue c fmt) (rule : Hour12Rule) :
    toEpochHour rule c fmt ≤ 24 := by
  by_cases hnoon : LiteralNoon rule c fmt
  · have hpm := c.ampm.isLt
    rw [toEpochHour_of_literalNoon hnoon]
    omega
  · obtain ⟨hle, -⟩ := toEpochHour_of_contract h hnoon
    omega

/-- Seconds, minutes and hours of local time are those of the time within its day, which can run over midnight. -/
theorem local_time_split {n t : Nat} {rule : Hour12Rule} {c : CalendarValue} {fmt : Bit} (h : contractValue c fmt)
    (ht : t = 86400 * n + timeOfDay rule c fmt) :
    t % 60 = c.sec.toNat ∧ t / 60 % 60 = c.min.toNat ∧ t / 3600 % 24 = toEpochHour rule c fmt % 24 := by
  obtain ⟨-, -, -, -, -, hsec, hmin, -⟩ := h
  rw [timeOfDay] at ht
  omega

/-! The ranges. -/

/-- The unwrapped sum of a contract value and its local time (42_epoch_converter.md R238). -/
theorem contract_sum {c : CalendarValue} {fmt : Bit} (h : contractValue c fmt) (rule : Hour12Rule) (tz : Int) :
    ∃ n : Nat, IsDate n (2000 + c.yr.toNat) c.mon.toNat c.day.toNat ∧ dayNumber c = n ∧ 10957 ≤ n ∧ n ≤ 47481 ∧
      toEpochSum rule c fmt tz + 3600 * tz = (86400 * n + timeOfDay rule c fmt : Nat) := by
  obtain ⟨n, hn, hdate⟩ := isDate_of_contract h
  obtain ⟨hyr, hmlo, hmhi, -⟩ := h
  obtain ⟨hlo, hhi⟩ := hdate.day_range (by omega)
  refine ⟨n, hdate, hn, hlo, hhi, ?_⟩
  rw [toEpochSum_eq_epochSum hmlo hmhi, epochSum_eq, hn]
  push_cast
  ring

theorem timeOfDay_le_of_contract {c : CalendarValue} {fmt : Bit} {rule : Hour12Rule} (h : contractValue c fmt)
    (hgood : ¬ LiteralNoon rule c fmt) : timeOfDay rule c fmt ≤ 86399 := by
  obtain ⟨hhour, -⟩ := toEpochHour_of_contract h hgood
  obtain ⟨-, -, -, -, -, hsec, hmin, -⟩ := h
  unfold timeOfDay
  omega

theorem contract_rule_good (c : CalendarValue) (fmt : Bit) : ¬ LiteralNoon .contract c fmt := fun h => nomatch h.1

/-- The contract's part of R238. -/
theorem contract_ranges {c : CalendarValue} {fmt : Bit} {tz : Int} (h : contractValue c fmt) (hlo : -12 ≤ tz)
    (hhi : tz ≤ 12) :
    946641600 ≤ toEpochSum .contract c fmt tz ∧ toEpochSum .contract c fmt tz ≤ 4102487999 ∧
    946684800 ≤ toEpochSum .contract c fmt tz + 3600 * tz ∧ toEpochSum .contract c fmt tz + 3600 * tz ≤ 4102444799 ∧
    ∃ r y, fromEpoch (toEpochSum .contract c fmt tz).toNat fmt tz = some r ∧ r.yr = some y := by
  obtain ⟨n, hdate, -, hnlo, hnhi, hsum⟩ := contract_sum h .contract tz
  have htime := timeOfDay_le_of_contract h (contract_rule_good c fmt)
  have hday : (86400 * n + timeOfDay .contract c fmt) / 86400 = n := by omega
  refine ⟨by omega, by omega, by omega, by omega, _, c.yr.toNat,
    fromEpoch_of_local (loc := 86400 * n + timeOfDay .contract c fmt) (by omega) (by omega) fmt, ?_⟩
  obtain ⟨hyr, -⟩ := h
  rw [localFields_of_date (by rwa [hday]), dateFields, twoDigitYear_of_mem (by omega), Nat.add_sub_cancel_left]

/-- The part of R238 on every value with a month: each field is bounded by its eight bits, the year by `YR`. -/
theorem toEpochSum_ranges {c : CalendarValue} (hmlo : 1 ≤ c.mon.toNat) (hmhi : c.mon.toNat ≤ 12) {tz : Int}
    (hlo : -128 ≤ tz) (hhi : tz ≤ 127) (rule : Hour12Rule) (fmt : Bit) :
    946684800 - 86400 - 127 * 3600 ≤ toEpochSum rule c fmt tz ∧
      (c.yr.toNat ≤ 99 → toEpochSum rule c fmt tz ≤ 4123149555) := by
  have hday := le_dayNumber c
  have hhour := toEpochHour_le rule c fmt
  have hbyte := c.day.isLt
  have hmin := c.min.isLt
  have hsec := c.sec.isLt
  rw [toEpochSum_eq_epochSum hmlo hmhi, epochSum_eq, timeOfDay]
  refine ⟨by omega, fun hyr => ?_⟩
  have hdayle := dayNumber_le hyr hmhi
  omega

/-- The first of the contract values: 2000-01-01 00:00:00, a Saturday. -/
def firstContractValue : CalendarValue :=
  { hs := 0, sec := 0, min := 0, hr := 0, wd := 7, day := 1, mon := 1, yr := 0, ampm := 0, cov := 0 }

/-- The last of the contract values: 2099-12-31 23:59:59, a Thursday. -/
def lastContractValue : CalendarValue :=
  { hs := 0, sec := 59, min := 59, hr := 23, wd := 5, day := 31, mon := 12, yr := 99, ampm := 0, cov := 0 }

/-- The largest sum with `YR` at most 99 (42_epoch_converter.md R238): December 2099, the other fields it reads as large as
their ports allow. -/
def largestSumValue : CalendarValue :=
  { hs := 0, sec := 255, min := 255, hr := 255, wd := 0, day := 255, mon := 12, yr := 99, ampm := 1, cov := 0 }

theorem contractValue_first : contractValue firstContractValue 0 := by
  unfold contractValue
  decide +kernel

theorem contractValue_last : contractValue lastContractValue 0 := by
  unfold contractValue
  decide +kernel

/-- Settles O41: the two ranges, and the three values that attain their ends. -/
theorem toepochRanges : Obligations.ToepochRanges := by
  unfold Obligations.ToepochRanges
  refine ⟨fun c fmt tz h hlo hhi => contract_ranges h hlo hhi,
    fun rule c fmt tz hmlo hmhi hlo hhi => toEpochSum_ranges hmlo hmhi hlo hhi rule fmt,
    ⟨firstContractValue, 0, contractValue_first, ?_⟩, ⟨lastContractValue, 0, contractValue_last, ?_⟩,
    largestSumValue, rfl, rfl, ?_⟩ <;> decide +kernel

/-! The round trip. -/

/-- TOEPOCH of a contract value does not wrap, and FROMEPOCH of its result localizes it to the time it was made of. -/
theorem exec_toepoch_of_contract {s : State} (h : contractValue s.inp.cal s.inp.fmt) (hlo : -12 ≤ hours s.inp.tz)
    (hhi : hours s.inp.tz ≤ 12) :
    ∃ (e : Scalar) (n : Nat), exec .toepoch s = .next (respond s { undriven s with y := e }) ∧
      IsDate n (2000 + s.inp.cal.yr.toNat) s.inp.cal.mon.toNat s.inp.cal.day.toNat ∧ dayNumber s.inp.cal = n ∧
      (e.toNat : Int) + 3600 * hours s.inp.tz = (86400 * n + timeOfDay s.params.hour12Rule s.inp.cal s.inp.fmt : Nat) ∧
      86400 * n + timeOfDay s.params.hour12Rule s.inp.cal s.inp.fmt < 2 ^ 32 := by
  obtain ⟨n, hdate, hn, hnlo, hnhi, hsum⟩ := contract_sum h s.params.hour12Rule (hours s.inp.tz)
  have hhour := toEpochHour_le_of_contract h s.params.hour12Rule
  obtain ⟨-, hmlo, hmhi, -, -, hsec, hmin, -⟩ := h
  have htime : timeOfDay s.params.hour12Rule s.inp.cal s.inp.fmt ≤ 89999 := by
    unfold timeOfDay
    omega
  refine ⟨_, n, exec_toepoch_of_month hmlo hmhi, hdate, hn, ?_, by omega⟩
  rw [ofInt32_toNat, ← toEpochSum_eq_epochSum hmlo hmhi]
  omega

/-- The fields of a contract value's own local time are those of the value. -/
theorem driveCalendar_dateFields_of_contract {c : CalendarValue} {fmt : Bit} {rule : Hour12Rule} {n : Nat}
    (h : contractValue c fmt) (hgood : ¬ LiteralNoon rule c fmt)
    (hdate : IsDate n (2000 + c.yr.toNat) c.mon.toNat c.day.toNat) (hn : dayNumber c = n) (o : CalendarOut) :
    let r := dateFields (86400 * n + timeOfDay rule c fmt) fmt (twoDigitYear (2000 + c.yr.toNat)) c.mon.toNat
      c.day.toNat
    let f := driveCalendar o r
    f.sec = c.sec ∧ f.min = c.min ∧ f.hr = c.hr ∧ r.ampm = c.ampm ∧ f.wd = c.wd ∧ f.day = c.day ∧ f.mon = c.mon ∧
      f.yr = c.yr := by
  intro r f
  have htime := timeOfDay_le_of_contract h hgood
  have hday : (86400 * n + timeOfDay rule c fmt) / 86400 = n := by omega
  obtain ⟨hsec, hmin, hhour⟩ := local_time_split (n := n) (rule := rule) h rfl
  obtain ⟨hle, hback, hampm⟩ := toEpochHour_of_contract h hgood
  rw [Nat.mod_eq_of_lt (Nat.lt_succ_of_le hle)] at hhour
  obtain ⟨hfsec, hfmin, hfhr, hfwd, hfday, hfmon⟩ := driveCalendar_dateFields_toNat o hdate fmt
    (loc := 86400 * n + timeOfDay rule c fmt) (twoDigitYear (2000 + c.yr.toNat))
  obtain ⟨hyr, -, -, -, -, -, -, -, hwd⟩ := h
  have hfyr : f.yr.toNat = 2000 + c.yr.toNat - 2000 := driveCalendar_dateFields_yr_toNat o (by omega)
  refine ⟨BitVec.eq_of_toNat_eq (hfsec.trans hsec), BitVec.eq_of_toNat_eq (hfmin.trans hmin),
    BitVec.eq_of_toNat_eq (hfhr.trans ?_), ?_, BitVec.eq_of_toNat_eq (hfwd.trans ?_),
    BitVec.eq_of_toNat_eq hfday, BitVec.eq_of_toNat_eq hfmon,
    BitVec.eq_of_toNat_eq (hfyr.trans (Nat.add_sub_cancel_left _ _))⟩
  · rw [hhour]
    exact hback
  · simp only [r, dateFields, hhour]
    exact hampm
  · rw [hday, weekdayOf]
    omega

/-- In `LiteralNoon` the local time is in the other half of the day. -/
theorem ampm_of_literalNoon {c : CalendarValue} {fmt : Bit} {rule : Hour12Rule} {h : Nat}
    (hnoon : LiteralNoon rule c fmt) (hhour : h = toEpochHour rule c fmt % 24) : (if fmt = 1 ∧ 12 ≤ h then 1 else 0) ≠ c.ampm := by
  rw [toEpochHour_of_literalNoon hnoon] at hhour
  obtain ⟨-, hfmt, -⟩ := hnoon
  simp only [hfmt, true_and, hhour]
  generalize c.ampm = pm
  revert pm
  decide

/-- Settles O40: FROMEPOCH's fields are those of the local time the value was made of; in `LiteralNoon` that time has
the other half of the day. -/
theorem epochRoundTripContract : Obligations.EpochRoundTripContract := by
  unfold Obligations.EpochRoundTripContract
  intro s h hlo hhi
  obtain ⟨e, n, hexec, hdate, hn, hloc, hlt⟩ := exec_toepoch_of_contract h hlo hhi
  refine ⟨_, hexec, ?_⟩
  by_cases hnoon : LiteralNoon s.params.hour12Rule s.inp.cal s.inp.fmt
  · obtain ⟨-, -, hhour⟩ := local_time_split (n := n) (rule := s.params.hour12Rule) h rfl
    refine ⟨_, exec_fromepoch_of_date hloc hlt (isDate_split _), iff_of_false ?_ (not_not.mpr hnoon)⟩
    rintro ⟨-, -, -, hampm, -⟩
    exact ampm_of_literalNoon hnoon hhour hampm
  · have htime := timeOfDay_le_of_contract h hnoon
    have hday : (86400 * n + timeOfDay s.params.hour12Rule s.inp.cal s.inp.fmt) / 86400 = n := by omega
    exact ⟨_, exec_fromepoch_of_date hloc hlt (hday.symm ▸ hdate),
      iff_of_true (driveCalendar_dateFields_of_contract h hnoon hdate hn _) hnoon⟩

end Sys2Proof.Proofs
end

section
/-!
Which bursts have a step (48_host_interface.md R282-R284): the admitted ones are the two runs of named registers, and a
device row, an address byte or a script line with any other burst is refused by name.
-/

namespace Sys2Proof.Proofs

open Sys2Proof Sys2Proof.Machine Sys2Proof.Claims

theorem namedRegister_iff (a : Nat) : namedRegister a = true ↔ a ≤ 0x07 ∨ a = 0x0E ∨ a = 0x0F := by
  simp only [namedRegister, Bool.or_eq_true, decide_eq_true_eq, beq_iff_eq, or_assoc]

theorem admitted_iff (a n : Nat) : admitted a n = true ↔ 1 ≤ n ∧ touchesOnlyNamed a n := by
  simp only [admitted, Bool.and_eq_true, decide_eq_true_eq, List.all_eq_true, List.mem_range, namedRegister_iff,
    touchesOnlyNamed]

/-- Consecutive named registers do not cross the gap from 0x08 to 0x0D, so a burst's first and last register decide; the
register at 0x08 or at 0x10 is the witness against a burst that runs past its end. -/
theorem touchesOnlyNamed_iff {a n : Nat} (hn : 1 ≤ n) :
    touchesOnlyNamed a n ↔ a + n ≤ 8 ∨ (14 ≤ a ∧ a + n ≤ 16) := by
  constructor
  · intro h
    have hfirst := h 0 hn
    have hlast := h (n - 1) (by omega)
    have hgap := h (8 - a)
    omega
  · intro h k hk
    omega

theorem not_admitted_of_unnamed {a : Nat} (h : namedRegister a = false) (n : Nat) : admitted a n = false := by
  refine Bool.eq_false_iff.mpr fun hadm => Bool.eq_false_iff.mp h ?_
  obtain ⟨hn, htouch⟩ := (admitted_iff a n).mp hadm
  exact (namedRegister_iff a).mpr (htouch 0 hn)

theorem memRead_of_not_admitted {a : RegAddr} {n : Nat} (h : admitted a.toNat n = false) (s : State) :
    memRead a n s = .refused (.burstNotAdmitted a.toNat n) := by
  simp only [memRead, h, Bool.false_eq_true, if_false]

theorem memWrite_of_not_admitted {a : RegAddr} {v : List Byte} (h : admitted a.toNat v.length = false) (s : State) :
    memWrite a v s = .refused (.burstNotAdmitted a.toNat v.length) := by
  simp only [memWrite, h, Bool.false_eq_true, if_false]

/-- A read row is a burst read from its own register. -/
theorem exec_readRow {ia : Instr × Nat} (h : ia ∈ readRows) :
    ∃ a : RegAddr, a.toNat = ia.2 ∧ ∀ s, exec ia.1 s = memRead a s.burst.count s := by
  have key : ∀ ia ∈ readRows, ia.1.channel = .addr ∧ isWriteAddr (encode ia.1) = false ∧
      (addrField (encode ia.1)).toNat = ia.2 := by decide
  obtain ⟨hchannel, hread, haddr⟩ := key ia h
  exact ⟨_, haddr, fun s => by rw [exec_device _ hchannel, hread, if_neg Bool.false_ne_true]⟩

/-- A write row is a burst write from its own register. -/
theorem exec_writeRow {ia : Instr × Nat} (h : ia ∈ writeRows) :
    ∃ a : RegAddr, a.toNat = ia.2 ∧ ∀ s, exec ia.1 s = memWrite a s.burst.data s := by
  have key : ∀ ia ∈ writeRows, ia.1.channel = .addr ∧ isWriteAddr (encode ia.1) = true ∧
      (addrField (encode ia.1)).toNat = ia.2 := by decide
  obtain ⟨hchannel, hwrite, haddr⟩ := key ia h
  exact ⟨_, haddr, fun s => by rw [exec_device _ hchannel, if_pos hwrite]⟩

/-- An address byte that decodes is the one the encoder gives its device row. -/
theorem decodeAddr_ok {b : Byte} {i : Instr} (h : decodeAddr b = .ok i) : i.channel = .addr ∧ encode i = b := by
  have key : ∀ b : Byte, (match decodeAddr b with
      | .ok i => i.channel == .addr && encode i == b
      | .error _ => true) = true := by decide
  simpa [h] using key b

/-- An address byte that does not decode names a register the document does not describe. -/
theorem decodeAddr_error {b : Byte} {e : DecodeError} (h : decodeAddr b = .error e) :
    namedRegister (addrField b).toNat = false := by
  have key : ∀ b : Byte, (decodeAddr b).isOk = namedRegister (addrField b).toNat := by decide
  rw [← key b, h]
  rfl

/-- An address byte starts the burst it names, at whatever register: a burst from a register without a row is refused
alike, since no burst from there is admitted. -/
theorem deviceTransaction_eq (b : Byte) (s : State) :
    deviceTransaction b s =
      if isWriteAddr b then memWrite (addrField b) s.burst.data s else memRead (addrField b) s.burst.count s := by
  cases hdec : decodeAddr b with
  | ok i =>
    obtain ⟨hchannel, rfl⟩ := decodeAddr_ok hdec
    simp only [deviceTransaction, hdec, exec_device i hchannel]
  | error e =>
    have hrefused := not_admitted_of_unnamed (decodeAddr_error hdec)
    simp only [deviceTransaction, hdec, memRead_of_not_admitted (hrefused _), memWrite_of_not_admitted (hrefused _)]
    split <;> rfl

theorem deviceTransaction_read (a : RegAddr) (s : State) :
    deviceTransaction (addrByte false a) s = memRead a s.burst.count s := by
  obtain ⟨hread, haddr⟩ := addrByte_read a
  rw [deviceTransaction_eq, hread, haddr, if_neg Bool.false_ne_true]

theorem deviceTransaction_write (a : RegAddr) (s : State) :
    deviceTransaction (addrByte true a) s = memWrite a s.burst.data s := by
  obtain ⟨hwrite, haddr⟩ := addrByte_write a
  rw [deviceTransaction_eq, if_pos hwrite, haddr]

theorem runLine_rd_of_not_admitted {a : RegAddr} {n : Nat} (h : admitted a.toNat n = false) (name : Option Nat)
    (s : State) : runLine (.rd name a n) s = .refused (.burstNotAdmitted a.toNat n) := by
  rw [runLine, deviceTransaction_read, memRead_of_not_admitted h, andThen_refused]

theorem runLine_wr_of_not_admitted {a : RegAddr} {data : List Operand} {bs : List Byte} {s : State}
    (hbs : dataBytes s.binds data = some bs) (h : admitted a.toNat bs.length = false) :
    runLine (.wr a data) s = .refused (.burstNotAdmitted a.toNat bs.length) := by
  simp only [runLine, hbs, deviceTransaction_write, memWrite_of_not_admitted h]

/-- Settles O45: the registers of an admitted burst by `touchesOnlyNamed_iff`, and every row and line is a MemRead or a
MemWrite, which refuses any other burst. -/
theorem onlyNamedBurstsAreAdmitted : Obligations.OnlyNamedBurstsAreAdmitted := by
  unfold Obligations.OnlyNamedBurstsAreAdmitted
  refine ⟨admitted_iff, fun a n => ?_, fun ia hia s h => ?_, fun ia hia s h => ?_,
    fun s name a n h => runLine_rd_of_not_admitted h name s, fun s a data bs => runLine_wr_of_not_admitted⟩
  · exact (admitted_iff a n).trans (and_congr_right touchesOnlyNamed_iff)
  · obtain ⟨a, ha, hexec⟩ := exec_readRow hia
    rw [← ha] at h ⊢
    exact (hexec s).trans (memRead_of_not_admitted h s)
  · obtain ⟨a, ha, hexec⟩ := exec_writeRow hia
    rw [← ha] at h ⊢
    exact (hexec s).trans (memWrite_of_not_admitted h s)

end Sys2Proof.Proofs
end

section
/-!
What a setter's signal says of the device (48_host_interface.md R290). Up to its first write a setter only reads registers
and asks the CORE, which leaves the device as it was; from there on it can only return Changed.
-/

namespace Sys2Proof.Proofs

open Sys2Proof Sys2Proof.Machine Sys2Proof.Claims

/-- From `s` to `t` no register changed and no write was exchanged. -/
def Unwritten (s t : State) : Prop := t.mem = s.mem ∧ writeCount t.trace = writeCount s.trace

theorem Unwritten.refl (s : State) : Unwritten s s := ⟨rfl, rfl⟩

theorem Unwritten.trans {s t u : State} : Unwritten s t → Unwritten t u → Unwritten s u
  | ⟨hmem, hcount⟩, ⟨hmem', hcount'⟩ => ⟨hmem'.trans hmem, hcount'.trans hcount⟩

theorem unwritten_afterRead (a : RegAddr) (n : Nat) (s : State) : Unwritten s (afterRead a n s) := by
  refine ⟨rfl, List.countP_cons_of_neg ?_⟩
  simp only [(addrByte_read a).1, Bool.false_eq_true, not_false_eq_true]

theorem memRead_unwritten (a : RegAddr) (n : Nat) (s : State) : Yields (Unwritten s) (memRead a n s) := by
  intro t h
  obtain ⟨-, -, rfl⟩ := memRead_cases h
  exact unwritten_afterRead a n s

theorem issue_unwritten (c : Byte) (inp : Inputs) (s : State) : Yields (Unwritten s) (issue c inp s) := by
  obtain ⟨o, ho⟩ := issue_respond c inp s
  rw [ho, yields_next]
  exact Unwritten.refl s

/-- An operation that started at `s` and ended at `t` signals Changed, or Unchanged with nothing written. -/
def SignalsWrites (s t : State) : Prop := t.ret = some .changed ∨ (t.ret = some .unchanged ∧ Unwritten s t)

theorem SignalsWrites.of_unwritten {s t u : State} (hst : Unwritten s t) (h : SignalsWrites t u) :
    SignalsWrites s u := by
  obtain hchanged | ⟨hunchanged, htu⟩ := h
  · exact .inl hchanged
  · exact .inr ⟨hunchanged, hst.trans htu⟩

/-! How the signal is carried through an operation: one rule per thing a setter does. -/

theorem yields_ite {P : State → Prop} {c : Prop} [Decidable c] {q r : Result} (hq : Yields P q) (hr : Yields P r) :
    Yields P (if c then q else r) := by
  split
  · exact hq
  · exact hr

theorem signals_unchanged (s : State) : Yields (SignalsWrites s) (returnWith .unchanged s) :=
  yields_next.mpr (.inr ⟨rfl, Unwritten.refl s⟩)

theorem signals_changed {s : State} (r : Result) : Yields (SignalsWrites s) (andThen r (returnWith .changed)) :=
  yields_andThen (P := fun _ => True) (fun _ _ => trivial) fun _ _ => yields_next.mpr (.inl rfl)

theorem signals_andThen {s : State} {r : Result} {f : State → Result} (hr : Yields (Unwritten s) r)
    (hf : ∀ t, Yields (SignalsWrites t) (f t)) : Yields (SignalsWrites s) (andThen r f) :=
  yields_andThen hr fun t hst u hu => (hf t u hu).of_unwritten hst

theorem signals_withRegister {a : RegAddr} {s : State} {f : Byte → State → Result}
    (hf : ∀ b t, Yields (SignalsWrites t) (f b t)) : Yields (SignalsWrites s) (withRegister a s f) :=
  signals_andThen (memRead_unwritten a 1 s) fun t => hf _ t

theorem signals_issue {c : Byte} {inp : Inputs} {s : State} {f : State → Result}
    (hf : ∀ t, Yields (SignalsWrites t) (f t)) : Yields (SignalsWrites s) (andThen (issue c inp s) f) :=
  signals_andThen (issue_unwritten c inp s) hf

/-- Nothing that stands before a last step that returns Changed matters to the signal: the write and the re-assertion may
touch the device as they like. -/
theorem signals_changed_after {s : State} (r : Result) (f : State → Result) :
    Yields (SignalsWrites s) (andThen r fun t => andThen (f t) (returnWith .changed)) :=
  yields_andThen (P := fun _ => True) (fun _ _ => trivial) fun t _ => signals_changed (f t)

theorem signals_writeField (a : RegAddr) (b : Byte) (s : State) : Yields (SignalsWrites s) (writeField a b s) :=
  signals_changed_after _ assertValid

theorem signals_withStatusByte {s : State} {f : Byte → State → Result}
    (hf : ∀ b t, Yields (SignalsWrites t) (f b t)) : Yields (SignalsWrites s) (withStatusByte s f) := by
  unfold withStatusByte
  split
  · exact hf 0 s
  · exact signals_withRegister hf

theorem signals_withCov {s : State} {f : Bit → State → Result}
    (hf : ∀ b t, Yields (SignalsWrites t) (f b t)) : Yields (SignalsWrites s) (withCov s f) := by
  unfold withCov
  split
  · exact hf 1 s
  · exact signals_withRegister fun _ _ => signals_issue fun u => hf _ u

/-! The setters, each by the rules in the order of its definition. -/

theorem hostSetFormat_signals (mode : Byte) (s : State) : Yields (SignalsWrites s) (hostSetFormat mode s) :=
  yields_ite
    (signals_withRegister fun _ t => yields_ite (signals_unchanged t) (signals_writeField _ _ t))
    (signals_unchanged s)

/-- The end of every field setter: nothing to do, or encode the value and write its byte. -/
theorem signals_encode_unless {c : Prop} [Decidable c] (cmd : Byte) (inp : Inputs) (a : RegAddr) (s : State) :
    Yields (SignalsWrites s)
      (if c then returnWith .unchanged s
       else andThen (issue cmd inp s) fun w => writeField a (w.out.y.setWidth 8) w) :=
  yields_ite (signals_unchanged s) (signals_issue fun w => signals_writeField _ _ w)

theorem hostSetPlain_signals (a : RegAddr) (dec enc : Byte) (put : CalendarValue → Byte → CalendarValue) (v : Byte)
    (s : State) : Yields (SignalsWrites s) (hostSetPlain a dec enc put v s) :=
  signals_withRegister fun _ _ => signals_issue fun u => signals_encode_unless _ _ _ u

theorem hostSetHour_signals (v : Byte) (s : State) : Yields (SignalsWrites s) (hostSetHour v s) :=
  signals_withRegister fun _ _ => signals_issue fun u => signals_encode_unless _ _ _ u

theorem hostSetAmPm_signals (v : Byte) (s : State) : Yields (SignalsWrites s) (hostSetAmPm v s) :=
  signals_withRegister fun _ _ => signals_issue fun u =>
    yields_ite (signals_unchanged u) (yields_ite (signals_unchanged u) (signals_encode_unless _ _ _ u))

theorem hostSetMonth_signals (v : Byte) (s : State) : Yields (SignalsWrites s) (hostSetMonth v s) :=
  signals_withRegister fun _ _ => signals_issue fun u => signals_encode_unless _ _ _ u

theorem hostSetCentury_signals (c : Byte) (s : State) : Yields (SignalsWrites s) (hostSetCentury c s) := by
  unfold hostSetCentury
  split
  · exact signals_unchanged s
  · exact yields_ite
      (signals_withRegister fun _ t => yields_ite (signals_unchanged t) (signals_writeField _ _ t))
      (signals_unchanged s)

theorem hostSetEpoch_signals (epoch : Scalar) (tz : Byte) (s : State) :
    Yields (SignalsWrites s) (hostSetEpoch epoch tz s) := by
  refine yields_ite (signals_unchanged s) ?_
  refine signals_withRegister fun _ _ => signals_issue fun _ => signals_issue fun _ => ?_
  refine signals_withCov fun _ _ => signals_withStatusByte fun _ _ => signals_issue fun _ => ?_
  exact signals_changed_after _ assertValid

theorem hostSetTrickle_signals (code : Byte) (s : State) : Yields (SignalsWrites s) (hostSetTrickle code s) :=
  yields_ite
    (signals_withRegister fun _ t => yields_ite (signals_unchanged t) (signals_changed _))
    (signals_unchanged s)

theorem runCall_signals {c : HostCall} (h : isSetter c = true) (s : State) :
    Yields (SignalsWrites s) (runCall c s) := by
  cases c <;> simp only [isSetter, Bool.false_eq_true] at h
  case setFormat mode => exact hostSetFormat_signals mode s
  case setHour v => exact hostSetHour_signals v s
  case setAmPm v => exact hostSetAmPm_signals v s
  case setMonth v => exact hostSetMonth_signals v s
  case setCentury c => exact hostSetCentury_signals c s
  case setEpoch epoch tz => exact hostSetEpoch_signals epoch tz s
  case setTrickleChargerMode code => exact hostSetTrickle_signals code s
  all_goals
    simp only [runCall]
    exact hostSetPlain_signals _ _ _ _ _ s

/-- Settles O54: a setter signals Changed, or Unchanged with nothing written, by `runCall_signals`. -/
theorem unchangedMeansNoWrite : Obligations.UnchangedMeansNoWrite := by
  unfold Obligations.UnchangedMeansNoWrite
  intro c s t hc ht
  obtain hret | ⟨hret, hunwritten⟩ := runCall_signals hc s t ht
  · exact ⟨⟨.changed, hret, .inl ⟨rfl, rfl⟩⟩, fun h => nomatch hret.symm.trans h⟩
  · exact ⟨⟨.unchanged, hret, .inr ⟨rfl, rfl⟩⟩, fun _ => hunwritten⟩

end Sys2Proof.Proofs
end

section
/-!
The Illegal response and the transaction after it (60_exceptions.md R341): Illegal is one more answer of the CORE, so
nothing of it but the draw it took is left for the next transaction.
-/

namespace Sys2Proof.Proofs

open Sys2Proof Sys2Proof.Machine Sys2Proof.Claims

/-- `raiseIllegal` is a `respond`, whose outputs the next transaction overwrites. -/
theorem issue_raiseIllegal_eq (c : Byte) (inp : Inputs) (s : State) :
    issue c inp (raiseIllegal s) = issue c inp { s with draws := s.draws + 1 } :=
  issue_respond_eq c inp s { undriven s with rs := rsIllegal }

/-- Settles O16: an illegal word raises Illegal, which is the response of R341 and leaves only its draw number behind. -/
theorem illegalResponseHasNoOtherEffect : Obligations.IllegalResponseHasNoOtherEffect := by
  unfold Obligations.IllegalResponseHasNoOtherEffect
  intro s hillegal
  have hanswer : coreTransaction s = .next (raiseIllegal s) := coreTransaction_of_illegal hillegal
  have hnext (c : Byte) (inp : Inputs) := issue_raiseIllegal_eq c inp s
  exact ⟨raiseIllegal s, hanswer, illegalAnswer_raiseIllegal s, hnext⟩

end Sys2Proof.Proofs
end

section
/-!
Decoding and encoding: a byte stands for an instruction on a receiver exactly when the encoder gives it
(30_encoding.md R100-R102, R111; 20_memory.md R71).
-/

namespace Sys2Proof.Proofs

open Sys2Proof Sys2Proof.Machine Sys2Proof.Claims

theorem decodeCmd_eq_ok_iff {b : Byte} {i : Instr} : decodeCmd b = .ok i ↔ i.channel = .cmd ∧ b = encode i := by
  constructor
  · exact fun h => ⟨decodeCmd_channel b i h, (encode_of_decodeCmd h).symm⟩
  · rintro ⟨hchannel, rfl⟩
    exact decodeCmd_encode hchannel

/-- The address byte of a device row decodes to it. -/
theorem decodeAddr_encode {i : Instr} (h : i.channel = .addr) : decodeAddr (encode i) = .ok i := by
  cases i <;> simp only [Instr.channel, reduceCtorEq] at h <;> rfl

theorem decodeAddr_eq_ok_iff {b : Byte} {i : Instr} : decodeAddr b = .ok i ↔ i.channel = .addr ∧ b = encode i := by
  constructor
  · intro h
    obtain ⟨hchannel, hencode⟩ := decodeAddr_ok h
    exact ⟨hchannel, hencode.symm⟩
  · rintro ⟨hchannel, rfl⟩
    exact decodeAddr_encode hchannel

theorem decodeByte_eq_ok_iff {ch : Channel} {b : Byte} {i : Instr} :
    decodeByte ch b = .ok i ↔ i.channel = ch ∧ b = encode i := by
  cases ch with
  | cmd => exact decodeCmd_eq_ok_iff
  | addr => exact decodeAddr_eq_ok_iff

/-- An instruction is one byte long. -/
theorem decode_cons_eq_ok_iff {ch : Channel} {b : Byte} {rest : List Byte} {i : Instr} :
    decode ch (b :: rest) = .ok (i, rest) ↔ decodeByte ch b = .ok i := by
  rw [decode]
  cases decodeByte ch b <;> simp

/-- Settles O1: the first byte alone is decoded, and on either receiver the encoder's byte is the only one that decodes
to the instruction. -/
theorem decodeIsExactlyEncode : Obligations.DecodeIsExactlyEncode := by
  unfold Obligations.DecodeIsExactlyEncode
  intro ch b rest i
  rw [decode_cons_eq_ok_iff, decodeByte_eq_ok_iff, eq_comm]

/-- Settles O2: each written-out word is what the encoder gives. -/
theorem tableWordsDecode : Obligations.TableWordsDecode := by
  unfold Obligations.TableWordsDecode
  simp only [decodeCmd_eq_ok_iff, decodeAddr_eq_ok_iff]
  decide

end Sys2Proof.Proofs
end

section
/-!
What a script line does, one lemma per kind of line (30_encoding.md R109), and the image after a burst of bytes is
stored (48_host_interface.md R283).
-/

namespace Sys2Proof.Proofs

open Sys2Proof Sys2Proof.Machine Sys2Proof.Claims

/-! One step is one line. -/

theorem step_of_line {s : State} {l : Line} {rest : List Line} (h : s.script = l :: rest) :
    step s = runLine l { s with script := rest } := by
  rw [step, h]

theorem step_of_no_line {s : State} (h : s.script = []) : step s = .next s := by
  rw [step, h]

/-! Lines. -/

theorem runLine_core {s : State} {ports : List (InPort × Operand)} {inp : Inputs}
    (h : applyPorts s.binds ports s.inp = some inp) (name : Option Nat) (c : Byte) :
    runLine (.core name c ports) s = andThen (issue c inp s) fun t => .next (bindName name (.outputs t.out) t) := by
  simp only [runLine, h]

theorem runLine_core_of_unbound {s : State} {ports : List (InPort × Operand)}
    (h : applyPorts s.binds ports s.inp = none) (name : Option Nat) (c : Byte) :
    runLine (.core name c ports) s = .fault .unboundName := by
  simp only [runLine, h]

theorem runLine_rd (name : Option Nat) (a : RegAddr) (n : Nat) (s : State) :
    runLine (.rd name a n) s = andThen (memRead a n { s with burst := { count := n, data := [] } })
      fun t => .next (bindName name (.bytes t.rd) t) := by
  rw [runLine, deviceTransaction_read]

theorem runLine_wr {s : State} {data : List Operand} {bs : List Byte} (h : dataBytes s.binds data = some bs)
    (a : RegAddr) :
    runLine (.wr a data) s = memWrite a bs { s with burst := { count := bs.length, data := bs } } := by
  simp only [runLine, h, deviceTransaction_write]

theorem runLine_wr_of_unbound {s : State} {data : List Operand} (h : dataBytes s.binds data = none) (a : RegAddr) :
    runLine (.wr a data) s = .fault .unboundName := by
  simp only [runLine, h]

theorem issue_of_ok {c : Byte} {i : Instr} (h : decodeCmd c = .ok i) (inp : Inputs) (s : State) :
    issue c inp s = exec i { s with inp := { inp with cmd := c } } := coreTransaction_of_ok h

theorem issue_of_error {c : Byte} {e : DecodeError} (h : decodeCmd c = .error e) (inp : Inputs) (s : State) :
    issue c inp s = .next (raiseIllegal { s with inp := { inp with cmd := c } }) := coreTransaction_of_error h

theorem deviceTransaction_of_ok {b : Byte} {i : Instr} (h : decodeAddr b = .ok i) (s : State) :
    deviceTransaction b s = exec i s := by
  simp only [deviceTransaction, h]

/-- A byte that no instruction of the receiver is decoded from is rejected by name. -/
theorem decodeByte_eq_error {ch : Channel} {b : Byte} (h : ∀ i, decodeByte ch b ≠ .ok i) :
    ∃ e, decodeByte ch b = .error e := by
  cases hdec : decodeByte ch b with
  | ok i => exact absurd hdec (h i)
  | error e => exact ⟨e, rfl⟩

/-- A register without a row admits no burst. -/
theorem not_admitted_of_no_row {write : Bool} {a : RegAddr} (h : ∀ i, decodeByte .addr (addrByte write a) ≠ .ok i)
    (n : Nat) : admitted a.toNat n = false := by
  obtain ⟨e, he⟩ := decodeByte_eq_error h
  have haddr : addrField (addrByte write a) = a := by
    cases write
    · exact (addrByte_read a).2
    · exact (addrByte_write a).2
  have hunnamed := decodeAddr_error he
  rw [haddr] at hunnamed
  exact not_admitted_of_unnamed hunnamed n

/-- Settles O4: the step is its line, and each kind of line is one lemma. -/
theorem stepRunsTheDecodedInstruction : Obligations.StepRunsTheDecodedInstruction := by
  unfold Obligations.StepRunsTheDecodedInstruction
  refine ⟨fun s name c ports rest inp i hs hports hdec => ?_, fun s name c ports rest inp hs hports hdec => ?_,
    fun s name c ports rest hs hports => ?_, fun s name a n rest i hs hdec => ?_,
    fun s a data bs rest i hs hdata hdec => ?_, fun s name a n rest hs hdec => ?_,
    fun s a data bs rest hs hdata hdec => ?_, fun s a data rest hs hdata => ?_, fun s c rest hs => step_of_line hs,
    fun s => step_of_no_line⟩
  · have hline := runLine_core (s := { s with script := rest }) hports name c
    refine (step_of_line hs).trans (hline.trans ?_)
    rw [issue_of_ok hdec]
  · obtain ⟨e, he⟩ := decodeByte_eq_error hdec
    have hline := runLine_core (s := { s with script := rest }) hports name c
    refine ⟨_, illegalAnswer_raiseIllegal _, (step_of_line hs).trans (hline.trans ?_)⟩
    rw [issue_of_error he, andThen_next]
  · exact (step_of_line hs).trans (runLine_core_of_unbound (s := { s with script := rest }) hports name c)
  · rw [step_of_line hs, runLine, deviceTransaction_of_ok hdec]
  · rw [step_of_line hs]
    simp only [runLine, hdata, deviceTransaction_of_ok hdec]
  · exact (step_of_line hs).trans (runLine_rd_of_not_admitted (not_admitted_of_no_row hdec n) name _)
  · exact (step_of_line hs).trans (runLine_wr_of_not_admitted hdata (not_admitted_of_no_row hdec _))
  · exact (step_of_line hs).trans (runLine_wr_of_unbound (s := { s with script := rest }) hdata a)

theorem operandValue_port_of_bound (k : Nat) (o : Outputs) (binds : List (Nat × Bound)) (p : OutPort) :
    operandValue ((k, .outputs o) :: binds) (.port k p) = some (outPort o p) := by
  simp [operandValue, lookupBound]

theorem operandValue_byte_of_bound (k : Nat) (bs : List Byte) (binds : List (Nat × Bound)) (j : Nat) :
    operandValue ((k, .bytes bs) :: binds) (.byte k j) = (bs[j]?).map (·.toNat) := by
  simp [operandValue, lookupBound]

/-- Settles O5: a line with a name puts its result in front of the bound ones, where a later operand finds it first. -/
theorem namedResultsFeedLaterLines : Obligations.NamedResultsFeedLaterLines := by
  unfold Obligations.NamedResultsFeedLaterLines
  constructor
  · intro s t k c ports rest p hs ht
    rw [step_of_line hs] at ht
    cases hports : applyPorts s.binds ports s.inp with
    | none => nomatch (runLine_core_of_unbound (s := { s with script := rest }) hports (some k) c).symm.trans ht
    | some inp =>
      have hline := runLine_core (s := { s with script := rest }) hports (some k) c
      obtain ⟨u, -, hu⟩ := andThen_eq_next.mp (hline.symm.trans ht)
      obtain rfl := Host.Outcome.next.inj hu
      exact operandValue_port_of_bound k u.out u.binds p
  · intro s t k a n j rest hs ht
    rw [step_of_line hs, runLine_rd, andThen_eq_next] at ht
    obtain ⟨u, hread, hu⟩ := ht
    obtain ⟨-, -, rfl⟩ := memRead_cases hread
    obtain rfl := Host.Outcome.next.inj hu
    exact ⟨returnedBytes_length .., operandValue_byte_of_bound k _ _ j⟩

/-! The image after a burst is stored. -/

theorem addr_succ_toNat {p : RegAddr} (h : p.toNat + 1 < 128) : (p + 1).toNat = p.toNat + 1 :=
  Nat.mod_eq_of_lt h

theorem wf_storedBytes {m : Memory} (h : Memory.wf m = true) (p : RegAddr) (v : List Byte) :
    Memory.wf (storedBytes m p v) = true := by
  induction v generalizing m p with
  | nil => exact h
  | cons b rest ih => exact ih (wf_write h _ b) _

/-- The registers of a burst after its first one. -/
theorem touchesOnlyNamed_tail {p : RegAddr} {n : Nat} (h : touchesOnlyNamed p.toNat (n + 1)) :
    touchesOnlyNamed (p + 1).toNat n := by
  have hfirst := h 0 (Nat.succ_pos n)
  intro k hk
  have hnext := h (k + 1) (Nat.succ_lt_succ hk)
  rw [addr_succ_toNat (by omega)]
  omega

theorem onlyNamed_storedBytes {m : Memory} (h : onlyNamed m = true) {p : RegAddr} {v : List Byte}
    (hv : touchesOnlyNamed p.toNat v.length) : onlyNamed (storedBytes m p v) = true := by
  induction v generalizing m p with
  | nil => exact h
  | cons b rest ih =>
    have hfirst : namedRegister p.toNat = true := (namedRegister_iff _).mpr (hv 0 (Nat.succ_pos _))
    exact ih (onlyNamed_write h hfirst b) (touchesOnlyNamed_tail hv)

end Sys2Proof.Proofs
end

section
/-!
What every operation of the host keeps and when it completes. One rule per thing an operation does, then each operation
by the rules in the order of its definition, as a script line and as a step.
-/

namespace Sys2Proof.Proofs

open Sys2Proof Sys2Proof.Machine Sys2Proof.Claims

/-- The parameters and the premises about device and transport are the same (00_scope.md R8; log 6). -/
structure SamePremises (s t : State) : Prop where
  params : t.params = s.params
  deviceStopped : t.deviceStopped = s.deviceStopped
  linkUp : t.linkUp = s.linkUp

theorem SamePremises.trans {s t u : State} (h : SamePremises s t) (h' : SamePremises t u) : SamePremises s u :=
  ⟨h'.params.trans h.params, h'.deviceStopped.trans h.deviceStopped, h'.linkUp.trans h.linkUp⟩

/-- Everything an operation keeps: the premises, and the system invariant. -/
structure Keeps (s t : State) : Prop where
  premises : SamePremises s t
  inv : SystemInv s → SystemInv t

theorem Keeps.trans {s t u : State} (h : Keeps s t) (h' : Keeps t u) : Keeps s u :=
  ⟨h.premises.trans h'.premises, fun hinv => h'.inv (h.inv hinv)⟩

/-- An operation that touches neither the premises nor the device. -/
theorem keeps_of_device_eq {s t : State} (hpremises : SamePremises s t) (hmem : t.mem = s.mem) (hlink : t.link = s.link)
    (hsent : t.sent = s.sent) : Keeps s t := by
  refine ⟨hpremises, fun hinv => ?_⟩
  rwa [SystemInv, hmem, hlink, hsent]

theorem keeps_afterRead (a : RegAddr) (n : Nat) (s : State) : Keeps s (afterRead a n s) := by
  refine ⟨⟨rfl, rfl, rfl⟩, ?_⟩
  rintro ⟨hwf, hnamed, -, -⟩
  exact ⟨hwf, hnamed, rfl, rfl⟩

theorem keeps_afterWrite {a : RegAddr} {v : List Byte} (h : admitted a.toNat v.length = true) (s : State) :
    Keeps s (afterWrite a v s) := by
  obtain ⟨-, htouch⟩ := (admitted_iff _ _).mp h
  refine ⟨⟨rfl, rfl, rfl⟩, ?_⟩
  rintro ⟨hwf, hnamed, -, -⟩
  exact ⟨wf_storedBytes hwf a v, onlyNamed_storedBytes hnamed htouch, rfl, rfl⟩

theorem memRead_keeps (a : RegAddr) (n : Nat) (s : State) : Yields (Keeps s) (memRead a n s) := by
  intro t h
  obtain ⟨-, -, rfl⟩ := memRead_cases h
  exact keeps_afterRead a n s

theorem memWrite_keeps (a : RegAddr) (v : List Byte) (s : State) : Yields (Keeps s) (memWrite a v s) := by
  intro t h
  obtain ⟨-, hadm, rfl⟩ := memWrite_cases h
  exact keeps_afterWrite hadm s

/-- The operation, begun in `s`, keeps what is to be kept, and on a working transport it completes. -/
structure Proceeds (s : State) (r : Result) : Prop where
  keeps : Yields (Keeps s) r
  completes : s.linkUp = true → completes r

/-! One rule per thing an operation does. -/

theorem proceeds_next {s t : State} (h : Keeps s t) : Proceeds s (.next t) := ⟨yields_next.mpr h, fun _ => ⟨t, rfl⟩⟩

theorem proceeds_andThen {s : State} {r : Result} {f : State → Result} (hr : Proceeds s r)
    (hf : ∀ t, Keeps s t → Proceeds t (f t)) : Proceeds s (andThen r f) := by
  constructor
  · exact yields_andThen hr.keeps fun t hst u hu => hst.trans ((hf t hst).keeps u hu)
  · intro hup
    obtain ⟨t, rfl⟩ := hr.completes hup
    have hst := hr.keeps t rfl
    exact (hf t hst).completes (hst.premises.linkUp.trans hup)

theorem proceeds_ite {s : State} {c : Prop} [Decidable c] {q r : Result} (hq : Proceeds s q) (hr : Proceeds s r) :
    Proceeds s (if c then q else r) := by
  split
  · exact hq
  · exact hr

theorem proceeds_memRead {a : RegAddr} {n : Nat} (h : admitted a.toNat n = true) (s : State) :
    Proceeds s (memRead a n s) :=
  ⟨memRead_keeps a n s, fun hup => ⟨_, memRead_eq hup h⟩⟩

theorem proceeds_memWrite {a : RegAddr} {v : List Byte} (h : admitted a.toNat v.length = true) (s : State) :
    Proceeds s (memWrite a v s) :=
  ⟨memWrite_keeps a v s, fun hup => ⟨_, memWrite_eq hup h⟩⟩

theorem proceeds_memWrite_one {a : RegAddr} (h : admitted a.toNat 1 = true) (b : Byte) (s : State) :
    Proceeds s (memWrite a [b] s) := proceeds_memWrite (v := [b]) h s

theorem proceeds_issue (c : Byte) (inp : Inputs) (s : State) : Proceeds s (issue c inp s) := by
  obtain ⟨o, ho⟩ := issue_respond c inp s
  rw [ho]
  exact proceeds_next (keeps_of_device_eq ⟨rfl, rfl, rfl⟩ rfl rfl rfl)

theorem proceeds_returnWith (r : HostReturn) (s : State) : Proceeds s (returnWith r s) :=
  proceeds_next (keeps_of_device_eq ⟨rfl, rfl, rfl⟩ rfl rfl rfl)

theorem proceeds_issue_andThen {c : Byte} {inp : Inputs} {s : State} {f : State → Result}
    (hf : ∀ t, Proceeds t (f t)) : Proceeds s (andThen (issue c inp s) f) :=
  proceeds_andThen (proceeds_issue c inp s) fun t _ => hf t

theorem proceeds_withRegister {a : RegAddr} (h : admitted a.toNat 1 = true) {s : State} {f : Byte → State → Result}
    (hf : ∀ b t, Proceeds t (f b t)) : Proceeds s (withRegister a s f) :=
  proceeds_andThen (proceeds_memRead h s) fun t _ => hf _ t

theorem proceeds_assertValid (s : State) : Proceeds s (assertValid s) := by
  unfold assertValid
  split
  · exact proceeds_withRegister (by decide) fun _ t => proceeds_memWrite_one (by decide) _ t
  · exact proceeds_withRegister (by decide) fun _ _ => proceeds_issue_andThen fun u =>
      proceeds_memWrite_one (by decide) _ u

/-- The end of a setter that writes: the write, the re-assertion, Changed. -/
theorem proceeds_memWrite_assertValid {a : RegAddr} {v : List Byte} (h : admitted a.toNat v.length = true) (s : State) :
    Proceeds s (andThen (memWrite a v s) fun t => andThen (assertValid t) (returnWith .changed)) :=
  proceeds_andThen (proceeds_memWrite h s) fun t _ =>
    proceeds_andThen (proceeds_assertValid t) fun u _ => proceeds_returnWith .changed u

theorem proceeds_writeField {a : RegAddr} (h : admitted a.toNat 1 = true) (b : Byte) (s : State) :
    Proceeds s (writeField a b s) := proceeds_memWrite_assertValid (v := [b]) h s

/-- The end of every field setter: nothing to do, or encode the value and write its byte. -/
theorem proceeds_encode_unless {c : Prop} [Decidable c] {a : RegAddr} (h : admitted a.toNat 1 = true) (cmd : Byte)
    (inp : Inputs) (s : State) :
    Proceeds s
      (if c then returnWith .unchanged s
       else andThen (issue cmd inp s) fun w => writeField a (w.out.y.setWidth 8) w) :=
  proceeds_ite (proceeds_returnWith .unchanged s) (proceeds_issue_andThen fun w => proceeds_writeField h _ w)

/-- A whole frame is an admitted burst from register 0x00. -/
theorem admitted_frame (r : RawFrame) : admitted (0x00 : RegAddr).toNat (bytesOfFrame r).length = true :=
  (by decide : admitted 0 8 = true)

theorem proceeds_withStatusByte {s : State} {f : Byte → State → Result} (hf : ∀ b t, Proceeds t (f b t)) :
    Proceeds s (withStatusByte s f) := by
  unfold withStatusByte
  split
  · exact hf 0 s
  · exact proceeds_withRegister (by decide) hf

theorem proceeds_withCov {s : State} {f : Bit → State → Result} (hf : ∀ b t, Proceeds t (f b t)) :
    Proceeds s (withCov s f) := by
  unfold withCov
  split
  · exact hf 1 s
  · exact proceeds_withRegister (by decide) fun _ _ => proceeds_issue_andThen fun u => hf _ u

/-! The host operations. -/

theorem hostGet_proceeds {a : RegAddr} (h : admitted a.toNat 1 = true) (cmd : Byte) (pick : Outputs → Scalar)
    (s : State) : Proceeds s (hostGet a cmd pick s) :=
  proceeds_withRegister h fun _ _ => proceeds_issue_andThen fun u => proceeds_returnWith _ u

theorem hostGetValidity_proceeds (s : State) : Proceeds s (hostGetValidity s) := by
  unfold hostGetValidity
  split <;> exact hostGet_proceeds (by decide) _ _ s

theorem hostGetCentury_proceeds {s : State} (h : s.params.validityLoc = .status) : Proceeds s (hostGetCentury s) := by
  rw [hostGetCentury, h]
  exact hostGet_proceeds (by decide) _ _ s

theorem hostSetFormat_proceeds (mode : Byte) (s : State) : Proceeds s (hostSetFormat mode s) :=
  proceeds_ite
    (proceeds_withRegister (by decide) fun _ t =>
      proceeds_ite (proceeds_returnWith .unchanged t) (proceeds_writeField (by decide) _ t))
    (proceeds_returnWith .unchanged s)

theorem hostSetPlain_proceeds {a : RegAddr} (h : admitted a.toNat 1 = true) (dec enc : Byte)
    (put : CalendarValue → Byte → CalendarValue) (v : Byte) (s : State) :
    Proceeds s (hostSetPlain a dec enc put v s) :=
  proceeds_withRegister h fun _ _ => proceeds_issue_andThen fun u => proceeds_encode_unless h _ _ u

theorem hostSetHour_proceeds (v : Byte) (s : State) : Proceeds s (hostSetHour v s) :=
  proceeds_withRegister (by decide) fun _ _ => proceeds_issue_andThen fun u =>
    proceeds_encode_unless (by decide) _ _ u

theorem hostSetAmPm_proceeds (v : Byte) (s : State) : Proceeds s (hostSetAmPm v s) :=
  proceeds_withRegister (by decide) fun _ _ => proceeds_issue_andThen fun u =>
    proceeds_ite (proceeds_returnWith .unchanged u)
      (proceeds_ite (proceeds_returnWith .unchanged u) (proceeds_encode_unless (by decide) _ _ u))

theorem hostSetMonth_proceeds (v : Byte) (s : State) : Proceeds s (hostSetMonth v s) :=
  proceeds_withRegister (by decide) fun _ _ => proceeds_issue_andThen fun u =>
    proceeds_encode_unless (by decide) _ _ u

theorem hostSetCentury_proceeds (c : Byte) (s : State) : Proceeds s (hostSetCentury c s) := by
  unfold hostSetCentury
  split
  · exact proceeds_returnWith .unchanged s
  · exact proceeds_ite
      (proceeds_withRegister (by decide) fun _ t =>
        proceeds_ite (proceeds_returnWith .unchanged t) (proceeds_writeField (by decide) _ t))
      (proceeds_returnWith .unchanged s)

theorem hostGetEpoch_proceeds (tz : Byte) (s : State) : Proceeds s (hostGetEpoch tz s) := by
  refine proceeds_andThen (proceeds_memRead (by decide) s) fun t _ => ?_
  refine proceeds_withStatusByte fun _ _ => proceeds_issue_andThen fun _ => ?_
  exact proceeds_issue_andThen fun w => proceeds_returnWith _ w

theorem hostSetEpoch_proceeds (epoch : Scalar) (tz : Byte) (s : State) : Proceeds s (hostSetEpoch epoch tz s) := by
  refine proceeds_ite (proceeds_returnWith .unchanged s) ?_
  refine proceeds_withRegister (by decide) fun _ _ => proceeds_issue_andThen fun _ => proceeds_issue_andThen fun _ => ?_
  refine proceeds_withCov fun _ _ => proceeds_withStatusByte fun _ _ => proceeds_issue_andThen fun x => ?_
  exact proceeds_memWrite_assertValid (admitted_frame x.out.raw) x

theorem hostSetTrickle_proceeds (code : Byte) (s : State) : Proceeds s (hostSetTrickle code s) := by
  refine proceeds_ite ?_ (proceeds_returnWith .unchanged s)
  refine proceeds_withRegister (by decide) fun _ t => proceeds_ite (proceeds_returnWith .unchanged t) ?_
  exact proceeds_andThen (proceeds_memWrite_one (by decide) code t) fun u _ => proceeds_returnWith .changed u

theorem runCall_proceeds {c : HostCall} {s : State} (h : c = .getCentury → s.params.validityLoc = .status) :
    Proceeds s (runCall c s) := by
  cases c <;> simp only [runCall]
  case getFormat => exact hostGet_proceeds (a := regHour) (by decide) 0x43 (fun o => bitToScalar o.fmtOut) s
  case setFormat mode => exact hostSetFormat_proceeds mode s
  case getCentury => exact hostGetCentury_proceeds (h rfl)
  case getValidity => exact hostGetValidity_proceeds s
  case setHour v => exact hostSetHour_proceeds v s
  case setAmPm v => exact hostSetAmPm_proceeds v s
  case setMonth v => exact hostSetMonth_proceeds v s
  case setCentury c => exact hostSetCentury_proceeds c s
  case getEpoch tz => exact hostGetEpoch_proceeds tz s
  case setEpoch epoch tz => exact hostSetEpoch_proceeds epoch tz s
  case setTrickleChargerMode code => exact hostSetTrickle_proceeds code s
  case setHundredths | setSecond | setMinute | setWeekday | setDay | setYear =>
    exact hostSetPlain_proceeds (by decide) _ _ _ _ s
  all_goals exact hostGet_proceeds (by decide) _ _ s

/-- Any call keeps what is to be kept: getCentury under MONTH, which is refused, has no next state. -/
theorem runCall_keeps (c : HostCall) (s : State) : Yields (Keeps s) (runCall c s) := by
  by_cases h : c = .getCentury → s.params.validityLoc = .status
  · exact (runCall_proceeds h).keeps
  · obtain ⟨rfl, hloc⟩ := Classical.not_imp.mp h
    cases hmonth : s.params.validityLoc with
    | status => exact absurd hmonth hloc
    | month =>
      simp only [runCall, hostGetCentury, hmonth]
      exact yields_refused

/-! Lines and steps. -/

theorem keeps_bindName (name : Option Nat) (b : Bound) (s : State) : Keeps s (bindName name b s) :=
  keeps_of_device_eq ⟨bindName_params .., bindName_deviceStopped .., bindName_linkUp ..⟩ (bindName_mem ..)
    (bindName_link ..) (bindName_sent ..)

/-- What a line runs on differs from the state before it in the host's script and burst only. -/
theorem Keeps.of_host_fields (s : State) (script : List Line) (burst : Burst) :
    Keeps s { s with script := script, burst := burst } := keeps_of_device_eq ⟨rfl, rfl, rfl⟩ rfl rfl rfl

theorem Keeps.yields {s t : State} {r : Result} (h : Keeps s t) (hr : Yields (Keeps t) r) : Yields (Keeps s) r :=
  fun u hu => h.trans (hr u hu)

theorem proceeds_core_line (name : Option Nat) (c : Byte) (inp : Inputs) (s : State) :
    Proceeds s (andThen (issue c inp s) fun t => .next (bindName name (.outputs t.out) t)) :=
  proceeds_issue_andThen fun t => proceeds_next (keeps_bindName name _ t)

theorem runLine_keeps (l : Line) (s : State) : Yields (Keeps s) (runLine l s) := by
  cases l with
  | core name c ports =>
    cases hports : applyPorts s.binds ports s.inp with
    | none => rw [runLine_core_of_unbound hports]; exact yields_fault
    | some inp => rw [runLine_core hports]; exact (proceeds_core_line name c inp s).keeps
  | rd name a n =>
    rw [runLine_rd]
    refine (Keeps.of_host_fields s s.script { count := n, data := [] }).yields
      (yields_andThen (memRead_keeps a n _) fun u hu => ?_)
    exact yields_next.mpr (hu.trans (keeps_bindName name _ u))
  | wr a data =>
    cases hdata : dataBytes s.binds data with
    | none => rw [runLine_wr_of_unbound hdata]; exact yields_fault
    | some bs => rw [runLine_wr hdata]; exact (Keeps.of_host_fields s s.script _).yields (memWrite_keeps a bs _)
  | call c => exact runCall_keeps c s

theorem step_keeps (s : State) : Yields (Keeps s) (step s) := by
  cases hscript : s.script with
  | nil =>
    rw [step_of_no_line hscript]
    exact yields_next.mpr (keeps_of_device_eq ⟨rfl, rfl, rfl⟩ rfl rfl rfl)
  | cons l rest =>
    rw [step_of_line hscript]
    exact (Keeps.of_host_fields s rest s.burst).yields (runLine_keeps l _)

/-- Settles O7: every operation of a step keeps the invariant, by `step_keeps`. -/
theorem everyStepKeepsTheSystemInvariant : Obligations.EveryStepKeepsTheSystemInvariant := by
  unfold Obligations.EveryStepKeepsTheSystemInvariant
  exact fun s t hinv ht => (step_keeps s t ht).inv hinv

/-- Settles O9: no operation of a step touches a parameter or a premise, by `step_keeps`. -/
theorem noStepChangesAParameter : Obligations.NoStepChangesAParameter := by
  unfold Obligations.NoStepChangesAParameter
  intro s t ht
  obtain ⟨hparams, hstopped, hup⟩ := (step_keeps s t ht).premises
  exact ⟨hparams, hstopped, hup⟩

/-- Settles O8: at power-on nothing is listed and no exchange has begun. -/
theorem powerOnMeetsTheSystemInvariant : Obligations.PowerOnMeetsTheSystemInvariant := by
  unfold Obligations.PowerOnMeetsTheSystemInvariant
  exact ⟨rfl, rfl, rfl, rfl⟩

/-- Settles O11: an image that lists nothing reads as the power-on draws, and reset names the other draws itself. -/
theorem powerOnStateIsDraws : Obligations.PowerOnStateIsDraws := by
  unfold Obligations.PowerOnStateIsDraws
  exact ⟨fun _ => rfl, fun _ => rfl, rfl, rfl, rfl, rfl, rfl⟩

/-! Bound names. -/

theorem exists_operandValue {binds : List (Nat × Bound)} {v : Operand} (h : operandBound binds v = true) :
    ∃ x, operandValue binds v = some x := Option.isSome_iff_exists.mp h

theorem exists_applyPorts {binds : List (Nat × Bound)} {ports : List (InPort × Operand)}
    (h : (ports.all fun pv => operandBound binds pv.2) = true) (inp : Inputs) :
    ∃ inp', applyPorts binds ports inp = some inp' := by
  induction ports generalizing inp with
  | nil => exact ⟨inp, rfl⟩
  | cons pv rest ih =>
    obtain ⟨hfirst, hrest⟩ := Bool.and_eq_true_iff.mp h
    obtain ⟨x, hx⟩ := exists_operandValue hfirst
    rw [applyPorts_cons hx]
    exact ih hrest _

theorem exists_dataBytes {binds : List (Nat × Bound)} {data : List Operand}
    (h : data.all (operandBound binds) = true) : ∃ bs, dataBytes binds data = some bs ∧ bs.length = data.length := by
  induction data with
  | nil => exact ⟨[], rfl, rfl⟩
  | cons v rest ih =>
    obtain ⟨hfirst, hrest⟩ := Bool.and_eq_true_iff.mp h
    obtain ⟨x, hx⟩ := exists_operandValue hfirst
    obtain ⟨bs, hbs, hlen⟩ := ih hrest
    exact ⟨BitVec.ofNat 8 x :: bs, by simp only [dataBytes, hx, hbs], congrArg (· + 1) hlen⟩

/-- Settles O10: the values of a line's operands exist, its burst is admitted, and every operation completes on a
working transport. -/
theorem wellFormedLinesComplete : Obligations.WellFormedLinesComplete := by
  unfold Obligations.WellFormedLinesComplete
  intro s l hwf hbound hup hcentury
  cases l with
  | core name c ports =>
    obtain ⟨inp, hinp⟩ := exists_applyPorts hbound s.inp
    rw [runLine_core hinp]
    exact (proceeds_core_line name c inp s).completes hup
  | rd name a n =>
    rw [runLine_rd]
    refine (proceeds_andThen (proceeds_memRead hwf _) fun u _ => ?_).completes hup
    exact proceeds_next (keeps_bindName name _ u)
  | wr a data =>
    obtain ⟨hadm, -⟩ := Bool.and_eq_true_iff.mp hwf
    obtain ⟨bs, hbs, hlen⟩ := exists_dataBytes hbound
    rw [← hlen] at hadm
    rw [runLine_wr hbs]
    exact (proceeds_memWrite hadm _).completes hup
  | call c => exact (runCall_proceeds fun hc => hcentury (congrArg Line.call hc)).completes hup

end Sys2Proof.Proofs
end

section
/-!
The bytes of a device burst (48_host_interface.md R282, R283; 20_memory.md R81, R84): what a read returns, what a write
leaves in the image, and that with the transport down neither has a step (R287).
-/

namespace Sys2Proof.Proofs

open Sys2Proof Sys2Proof.Machine Sys2Proof.Claims

/-- No admitted burst goes past 0x0F. -/
theorem admitted_end_le {a n : Nat} (h : admitted a n = true) : a + n ≤ 16 := by
  obtain ⟨hn, htouch⟩ := (admitted_iff a n).mp h
  have := (touchesOnlyNamed_iff hn).mp htouch
  omega

theorem returnedBytes_getElem? (stopped : Bool) (m : Memory) {n k : Nat} {p : RegAddr} (hp : p.toNat + n < 128)
    (hk : k < n) (d : Nat) :
    (returnedBytes stopped m n p d)[k]? =
      some (if stopped then Memory.read m (p.toNat + k) else Config.deviceByte (d + k)) := by
  induction n generalizing p d k with
  | zero => omega
  | succ n ih =>
    cases k with
    | zero => rfl
    | succ k =>
      have hnext : (p + 1).toNat = p.toNat + 1 := addr_succ_toNat (by omega)
      rw [returnedBytes, List.getElem?_cons_succ, ih (by omega) (by omega), hnext, Nat.add_right_comm,
        Nat.add_right_comm d]
      rfl

/-- After a burst is stored, a register of the burst holds its byte and every other register what it held. -/
theorem read_storedBytes (m : Memory) {p : RegAddr} {v : List Byte} (hp : p.toNat + v.length < 128) (x : Nat) :
    Memory.read (storedBytes m p v) x =
      (if p.toNat ≤ x then v[x - p.toNat]? else none).getD (Memory.read m x) := by
  induction v generalizing m p with
  | nil => simp [storedBytes]
  | cons b rest ih =>
    have hlen : (b :: rest).length = rest.length + 1 := rfl
    have hnext : (p + 1).toNat = p.toNat + 1 := addr_succ_toNat (by omega)
    rw [storedBytes, ih _ (by omega), hnext]
    obtain hlt | rfl | hgt := Nat.lt_trichotomy x p.toNat
    · rw [if_neg (by omega), if_neg (by omega)]
      exact read_write_other m b (by omega)
    · rw [if_neg (by omega), if_pos (Nat.le_refl _), Nat.sub_self]
      exact read_write_same m _ b
    · obtain ⟨k, rfl⟩ := Nat.exists_eq_add_of_lt hgt
      have hsucc : p.toNat + k + 1 - p.toNat = k + 1 := by omega
      have hrest : p.toNat + k + 1 - (p.toNat + 1) = k := by omega
      rw [if_pos (by omega), if_pos (by omega), hsucc, hrest, List.getElem?_cons_succ,
        read_write_other m b (by omega)]

/-- A stopped device returns the bytes just stored. -/
theorem returnedBytes_storedBytes (m : Memory) {p : RegAddr} {v : List Byte} (hp : p.toNat + v.length < 128) (d : Nat) :
    returnedBytes true (storedBytes m p v) v.length p d = v := by
  refine List.ext_getElem? fun k => ?_
  by_cases hk : k < v.length
  · rw [returnedBytes_getElem? true _ hp hk, if_pos rfl, read_storedBytes m hp, if_pos (Nat.le_add_right _ k),
      Nat.add_sub_cancel_left, List.getElem?_eq_getElem hk, Option.getD_some]
  · rw [List.getElem?_eq_none (by rw [returnedBytes_length]; omega), List.getElem?_eq_none (by omega)]

theorem addrByte_read_eq (a : RegAddr) : addrByte false a = BitVec.ofNat 8 a.toNat := by
  revert a
  decide

theorem addrByte_write_eq (a : RegAddr) : addrByte true a = BitVec.ofNat 8 (128 + a.toNat) := by
  revert a
  decide

theorem addr_add_ofNat (a : RegAddr) (n : Nat) : a + BitVec.ofNat 7 n = BitVec.ofNat 7 (a.toNat + n) := by
  rw [BitVec.ofNat_add, BitVec.ofNat_toNat, BitVec.setWidth_eq]

/-- Settles O43: a row's read is `afterRead`, whose bytes are `returnedBytes`. -/
theorem deviceReadsReturnTheRegisters : Obligations.DeviceReadsReturnTheRegisters := by
  unfold Obligations.DeviceReadsReturnTheRegisters
  intro ia hia s hup hn htouch
  obtain ⟨a, ha, hexec⟩ := exec_readRow hia
  rw [← ha] at htouch ⊢
  have hadm := (admitted_iff _ _).mpr ⟨hn, htouch⟩
  have hend := admitted_end_le hadm
  refine ⟨_, (hexec s).trans (memRead_eq hup hadm), returnedBytes_length .., fun k hk => ?_, ?_⟩
  · exact returnedBytes_getElem? _ _ (by omega) hk _
  · rw [afterRead, addrByte_read_eq, addr_add_ofNat]

/-- Settles O44: a row's write is `afterWrite`, whose image is `storedBytes`. -/
theorem deviceWritesStoreTheBytes : Obligations.DeviceWritesStoreTheBytes := by
  unfold Obligations.DeviceWritesStoreTheBytes
  intro ia hia s hup hn htouch
  obtain ⟨a, ha, hexec⟩ := exec_writeRow hia
  rw [← ha] at htouch ⊢
  have hadm := (admitted_iff _ _).mpr ⟨hn, htouch⟩
  have hend := admitted_end_le hadm
  refine ⟨_, (hexec s).trans (memWrite_eq hup hadm), fun x => ?_, ?_⟩
  · refine (read_storedBytes s.mem (by omega) x).trans ?_
    cases (if a.toNat ≤ x then s.burst.data[x - a.toNat]? else none) <;> rfl
  · rw [afterWrite, addrByte_write_eq, addr_add_ofNat]

/-- Settles O46: what a burst write stores, a burst read of the same registers returns. -/
theorem readAfterWriteWhileStopped : Obligations.ReadAfterWriteWhileStopped := by
  unfold Obligations.ReadAfterWriteWhileStopped
  rintro s a v ⟨hstopped, hup⟩ hadm
  have hend := admitted_end_le hadm
  refine ⟨_, memWrite_eq hup hadm, _, memRead_eq hup hadm, ?_, rfl⟩
  simp only [afterRead, afterWrite, hstopped]
  exact returnedBytes_storedBytes s.mem (by omega) _

theorem memRead_of_down {a : RegAddr} {n : Nat} {s : State} (hdown : s.linkUp = false)
    (h : admitted a.toNat n = true) : memRead a n s = .fault .exchangeIncomplete := by
  rw [memRead, if_pos h]
  exact exchange_down hdown

theorem memWrite_of_down {a : RegAddr} {v : List Byte} {s : State} (hdown : s.linkUp = false)
    (h : admitted a.toNat v.length = true) : memWrite a v s = .fault .exchangeIncomplete := by
  rw [memWrite, if_pos h]
  exact exchange_down hdown

/-- Settles O47: an admitted burst exchanges its address byte first, which does not complete. -/
theorem incompleteExchangeIsStuck : Obligations.IncompleteExchangeIsStuck := by
  unfold Obligations.IncompleteExchangeIsStuck
  refine ⟨fun ia hia s hdown hadm => ?_, fun ia hia s hdown hadm => ?_⟩
  · obtain ⟨a, ha, hexec⟩ := exec_readRow hia
    rw [← ha] at hadm
    exact (hexec s).trans (memRead_of_down hdown hadm)
  · obtain ⟨a, ha, hexec⟩ := exec_writeRow hia
    rw [← ha] at hadm
    exact (hexec s).trans (memWrite_of_down hdown hadm)

end Sys2Proof.Proofs
end

section
/-!
The ports a CORE command reads and drives (30_encoding.md R103, R104). What it reads of the input ports is its operands,
the slices of R103, and two states with the same operands get the same answer.
-/

namespace Sys2Proof.Proofs

open Sys2Proof Sys2Proof.Machine Sys2Proof.Claims

/-- The other input ports hold the same operands for the command: the slices 30_encoding.md R103 lists for it. -/
def SameOperands (i : Instr) (s : State) (inp : Inputs) : Prop :=
  let s' := { s with inp := inp }
  match i with
  | .bcdenc | .bcddec | .h24to12 => operandByte s' = operandByte s
  | .fdecHs | .fdecSec | .fdecMin | .fdecHour | .fdecWday | .fdecDay | .fdecMonth | .fdecYear | .fdecStatus =>
    operandByte s' = operandByte s
  | .fencHs => inp.cal.hs = s.inp.cal.hs
  | .fencSec => inp.cal.sec = s.inp.cal.sec
  | .fencMin => inp.cal.min = s.inp.cal.min
  | .fencHour => inp.cal.hr = s.inp.cal.hr ∧ inp.cal.ampm = s.inp.cal.ampm ∧ inp.fmt = s.inp.fmt
  | .fencWday => inp.cal.wd = s.inp.cal.wd
  | .fencDay => inp.cal.day = s.inp.cal.day
  | .fencMonth => inp.cal.mon = s.inp.cal.mon ∧ inp.cal.cov = s.inp.cal.cov
  | .fencYear => inp.cal.yr = s.inp.cal.yr
  | .fencStatus => inp.valid = s.inp.valid ∧ inp.stIn = s.inp.stIn
  | .frmenc => inp.cal = s.inp.cal ∧ inp.fmt = s.inp.fmt ∧ inp.valid = s.inp.valid ∧ inp.stIn = s.inp.stIn
  | .frmdec => inp.raw = s.inp.raw ∧ inp.stIn = s.inp.stIn
  | .leap => operandYear s' = operandYear s
  | .mdays => operandYear s' = operandYear s ∧ operandMonth s' = operandMonth s
  | .wday => operandScalar s' = operandScalar s
  | .h12to24 => operandByte s' = operandByte s ∧ operandPm s' = operandPm s
  | .toepoch =>
    inp.cal.sec = s.inp.cal.sec ∧ inp.cal.min = s.inp.cal.min ∧ inp.cal.hr = s.inp.cal.hr ∧
      inp.cal.day = s.inp.cal.day ∧ inp.cal.mon = s.inp.cal.mon ∧ inp.cal.yr = s.inp.cal.yr ∧
      inp.cal.ampm = s.inp.cal.ampm ∧ inp.fmt = s.inp.fmt ∧ operandTz s' = operandTz s
  | .fromepoch => operandScalar s' = operandScalar s ∧ inp.fmt = s.inp.fmt ∧ operandTz s' = operandTz s
  | _ => True

/-- The same operands get the same answer. -/
theorem exec_of_sameOperands {i : Instr} {s : State} {inp : Inputs} (h : i.channel = .cmd)
    (hop : SameOperands i s inp) : exec i { s with inp := inp } = answerOn { s with inp := inp } (exec i s) := by
  cases i <;> simp only [Instr.channel, reduceCtorEq] at h <;> simp only [SameOperands] at hop <;> simp only [exec]
  case fencStatus => simp only [execFencStatus, hop]; split <;> rfl
  case fdecMonth => simp only [execFdecMonth, hop]; split <;> rfl
  case fdecStatus => simp only [execFdecStatus, hop]; split <;> rfl
  case frmenc => simp only [execFrmenc, hop]; split <;> rfl
  case mdays => simp only [execMdays, hop, apply_ite (answerOn _)]; rfl
  case h24to12 => simp only [execH24to12, hop, apply_ite (answerOn _)]; rfl
  case toepoch => simp only [execToepoch, toEpoch, toEpochSum, toEpochHour, hop]; split <;> rfl
  case fromepoch => simp only [execFromepoch, hop]; split <;> rfl
  case fdecHs | fdecSec | fdecMin | fdecWday | fdecDay | fdecYear =>
    change respondStraight _ = answerOn _ (respondStraight s)
    simp only [respondStraight, hop]
    rfl
  all_goals
    simp only [execBcdenc, execBcddec, execFencHs, execFencSec, execFencMin, execFencHour, execFencWday, execFencDay,
      execFencMonth, execFencYear, execFdecHour, execFrmdec, execLeap, execWday, execH12to24, hop]
    rfl

/-- The answer as the statements ask for it: the same outputs. -/
theorem sameOutputs_of_sameOperands {i : Instr} {s t : State} {inp : Inputs} (h : i.channel = .cmd)
    (ht : exec i s = .next t) (hop : SameOperands i s inp) :
    ∃ u, exec i { s with inp := inp } = .next u ∧ u.out = t.out :=
  ⟨respond { s with inp := inp } t.out, by rw [exec_of_sameOperands h hop, ht]; rfl, rfl⟩

theorem calendarValue_eq {c c' : CalendarValue} (hhs : c.hs = c'.hs) (hsec : c.sec = c'.sec) (hmin : c.min = c'.min)
    (hhr : c.hr = c'.hr) (hwd : c.wd = c'.wd) (hday : c.day = c'.day) (hmon : c.mon = c'.mon) (hyr : c.yr = c'.yr)
    (hampm : c.ampm = c'.ampm) (hcov : c.cov = c'.cov) : c = c' := by
  cases c
  cases c'
  exact (CalendarValue.mk.injEq ..).mpr ⟨hhs, hsec, hmin, hhr, hwd, hday, hmon, hyr, hampm, hcov⟩

theorem rawFrame_eq {r r' : RawFrame} (h0 : r.hundredths = r'.hundredths) (h1 : r.second = r'.second)
    (h2 : r.minute = r'.minute) (h3 : r.hour = r'.hour) (h4 : r.weekday = r'.weekday) (h5 : r.day = r'.day)
    (h6 : r.month = r'.month) (h7 : r.year = r'.year) : r = r' := by
  cases r
  cases r'
  exact (RawFrame.mk.injEq ..).mpr ⟨h0, h1, h2, h3, h4, h5, h6, h7⟩

/-- The operands stand on the ports the command reads. -/
theorem sameOperands_of_reads {i : Instr} {s : State} {inp : Inputs} (h : i.channel = .cmd)
    (hports : ∀ p ∈ i.reads, getPort inp p = getPort s.inp p) : SameOperands i s inp := by
  cases i <;> simp only [Instr.channel, reduceCtorEq] at h <;>
    simp only [Instr.reads, InPort.rawAll, List.cons_append, List.nil_append, List.forall_mem_cons, List.not_mem_nil,
      false_imp_iff, implies_true, and_true, getPort, BitVec.toNat_inj] at hports
  case frmenc =>
    obtain ⟨hhs, hsec, hmin, hhr, hwd, hday, hmon, hyr, hampm, hcov, hfmt, hvalid, hstIn⟩ := hports
    exact ⟨calendarValue_eq hhs hsec hmin hhr hwd hday hmon hyr hampm hcov, hfmt, hvalid, hstIn⟩
  case frmdec =>
    obtain ⟨h0, h1, h2, h3, h4, h5, h6, h7, hstIn⟩ := hports
    exact ⟨rawFrame_eq h0 h1 h2 h3 h4 h5 h6 h7, hstIn⟩
  all_goals
    simp only [SameOperands, operandByte, operandYear, operandScalar, operandMonth, operandPm, operandTz, hports,
      and_self]

/-- Settles O13: a command's operands stand on the ports it reads. -/
theorem unreadPortsAreIgnored : Obligations.UnreadPortsAreIgnored := by
  unfold Obligations.UnreadPortsAreIgnored
  intro i s t inp h ht hports
  exact sameOutputs_of_sameOperands h ht (sameOperands_of_reads h hports)

end Sys2Proof.Proofs
end

section
/-!
The statements on a command's ports (30_encoding.md R103, R104, 00_scope.md R16), and the pseudo-instructions, which are
lines of one command (R110).
-/

namespace Sys2Proof.Proofs

open Sys2Proof Sys2Proof.Machine Sys2Proof.Claims

/-! Bits above a slice. -/

theorem operandByte_of_mod_eq {s : State} {a : Scalar} (h : a.toNat % 256 = lowByte s) :
    operandByte { s with inp := { s.inp with a := a } } = operandByte s := by
  refine BitVec.eq_of_toNat_eq ?_
  rw [operandByte_toNat, operandByte_toNat, ← h]
  rfl

theorem operandYear_of_mod_eq {s : State} {a : Scalar} (h : a.toNat % 65536 = lowHalf s) :
    operandYear { s with inp := { s.inp with a := a } } = operandYear s := by
  rw [operandYear_eq_lowHalf, operandYear_eq_lowHalf, ← h]
  rfl

theorem operandPm_of_mod_eq {s : State} {b : Byte} (h : b.toNat % 2 = s.inp.b.toNat % 2) :
    operandPm { s with inp := { s.inp with b := b } } = operandPm s := by
  refine BitVec.eq_of_toNat_eq ?_
  rw [operandPm_toNat, operandPm_toNat]
  exact h

/-- Settles O14: the operands of each command are slices, and outside them the port may hold anything. -/
theorem operandBitsAboveTheSliceAreIgnored : Obligations.OperandBitsAboveTheSliceAreIgnored := by
  unfold Obligations.OperandBitsAboveTheSliceAreIgnored
  refine ⟨fun i hi s t a ht ha => ?_, fun i hi s t a ht ha => ?_, fun s t b ht hb => ?_⟩
  · have hbyte := operandByte_of_mod_eq ha
    cases i <;> simp only [List.mem_cons, List.not_mem_nil, reduceCtorEq, or_false] at hi
    case h12to24 => exact sameOutputs_of_sameOperands rfl ht ⟨hbyte, rfl⟩
    all_goals exact sameOutputs_of_sameOperands rfl ht hbyte
  · have hyear := operandYear_of_mod_eq ha
    cases i <;> simp only [List.mem_cons, List.not_mem_nil, reduceCtorEq, or_false] at hi
    case leap => exact sameOutputs_of_sameOperands rfl ht hyear
    case mdays => exact sameOutputs_of_sameOperands rfl ht ⟨hyear, rfl⟩
  · exact sameOutputs_of_sameOperands rfl ht ⟨rfl, operandPm_of_mod_eq hb⟩

/-! Driven ports. -/

/-- A command that drives nothing drives no more than the listed ports. -/
theorem answers_of_undriven {i : Instr} {s : State} {driven : List OutPort} {P : Outputs → Prop}
    (hexec : exec i s = .next (respond s (undriven s))) (hP : P (undriven s)) : Answers i s driven P := by
  obtain ⟨t, ht, hframe, hrs, hfree, -⟩ := answers_undriven hexec
  obtain rfl := Host.Outcome.next.inj (hexec.symm.trans ht)
  exact ⟨_, ht, hframe, hrs, fun p _ => hfree p List.not_mem_nil, hP⟩

theorem exec_fromepoch_cases (s : State) :
    exec .fromepoch s = .next (respond s (undriven s)) ∨
      ∃ r, exec .fromepoch s = .next (respond s (fromepochOutputs s r)) := by
  simp only [exec, execFromepoch]
  split
  · exact .inr ⟨_, rfl⟩
  · exact .inl rfl

/-- Settles O15: each command's answer, in each branch of its meaning, stands on the ports the table lists for it. -/
theorem onlyTheListedPortsAreDriven : Obligations.OnlyTheListedPortsAreDriven := by
  unfold Obligations.OnlyTheListedPortsAreDriven
  intro i s h hw
  cases i <;> simp only [Instr.channel, reduceCtorEq] at h <;> simp only [Instr.drives]
  case fencStatus => exact answers_of_freePorts (exec_fencStatus_of_status (eq_of_beq hw)) rfl rfl fun _ => rfl
  case fdecStatus => exact answers_of_freePorts (exec_fdecStatus_of_status (eq_of_beq hw)) rfl rfl fun _ => rfl
  case fdecMonth =>
    cases hloc : s.params.validityLoc with
    | month => exact answers_of_freePorts (exec_fdecMonth_of_month hloc) rfl rfl fun _ => rfl
    | status => exact answers_of_freePorts (exec_fdecMonth_of_status hloc) rfl rfl fun _ => rfl
  case frmenc => exact answers_of_freePorts (exec_frmenc s) rfl rfl fun hne => absurd rfl hne
  case mdays =>
    by_cases hm : 1 ≤ s.inp.b.toNat ∧ s.inp.b.toNat ≤ 12
    · exact answers_of_freePorts (exec_mdays_of_month hm) rfl rfl fun _ => rfl
    · exact answers_of_undriven (exec_mdays_of_not_month hm) fun _ => rfl
  case h24to12 =>
    by_cases hh : lowByte s ≤ 23
    · exact answers_of_freePorts (exec_h24to12_of_le hh) rfl rfl fun _ => rfl
    · exact answers_of_undriven (exec_h24to12_of_not_le hh) fun _ => rfl
  case toepoch =>
    by_cases hm : 1 ≤ s.inp.cal.mon.toNat ∧ s.inp.cal.mon.toNat ≤ 12
    · exact answers_of_freePorts (exec_toepoch_of_month hm.1 hm.2) rfl rfl fun _ => rfl
    · exact answers_of_undriven (exec_toepoch_of_not_month hm) fun _ => rfl
  case fromepoch =>
    obtain hexec | ⟨r, hexec⟩ := exec_fromepoch_cases s
    · exact answers_of_undriven hexec fun _ => rfl
    · exact answers_of_freePorts hexec rfl rfl fun _ => rfl
  all_goals exact answers_of_freePorts rfl rfl rfl fun _ => rfl

/-! Lines of one command. -/

/-- A command issued by its word answers on the ports the host presents, and changes nothing but the outputs and the
draw counter. -/
theorem issue_answered {i : Instr} {c : Byte} {inp : Inputs} {s : State} {driven : List OutPort} {P : Outputs → Prop}
    (hc : EncodedAs i c) (ha : Answers i { s with inp := { inp with cmd := c } } driven P) :
    ∃ o, issue c inp s = .next (respond { s with inp := { inp with cmd := c } } o) ∧ o.rs = rsOk ∧ P o := by
  obtain ⟨t, ht, hframe, hrs, -, hP⟩ := ha
  refine ⟨t.out, ?_, hrs, hP⟩
  rw [issue_of_ok ((hc c).mpr rfl), ht]
  exact congrArg Host.Outcome.next hframe

theorem runLine_core_answered {i : Instr} {c : Byte} {inp : Inputs} {s : State} {driven : List OutPort}
    {P : Outputs → Prop} {ports : List (InPort × Operand)} (hports : applyPorts s.binds ports s.inp = some inp)
    (hc : EncodedAs i c) (ha : Answers i { s with inp := { inp with cmd := c } } driven P) (name : Option Nat) :
    ∃ t, runLine (.core name c ports) s = .next t ∧ t.out.rs = 0b00 ∧ P t.out := by
  obtain ⟨o, ho, hrs, hP⟩ := issue_answered hc ha
  refine ⟨_, by rw [runLine_core hports, ho, andThen_next], ?_, ?_⟩
  · rwa [bindName_out]
  · rwa [bindName_out]

/-- The input ports once a line has set `A` to a value. -/
def withA (s : State) (x : Nat) : Inputs := setPort s.inp .a x

theorem applyPorts_a {s : State} {v : Operand} {x : Nat} (h : operandValue s.binds v = some x) :
    applyPorts s.binds [(.a, v)] s.inp = some (withA s x) := applyPorts_cons h

/-- The number in `A[7:0]` when a command is issued with a value on `A`. -/
theorem lowByte_withA (s : State) (c : Byte) {x : Nat} (hx : x < 2 ^ 32) :
    lowByte { s with inp := { withA s x with cmd := c } } = x % 256 :=
  congrArg (· % 256) (ofNat_toNat_of_lt hx)

theorem lowHalf_withA (s : State) (c : Byte) {x : Nat} (hx : x < 2 ^ 32) :
    lowHalf { s with inp := { withA s x with cmd := c } } = x % 65536 :=
  congrArg (· % 65536) (ofNat_toNat_of_lt hx)

theorem runLine_getfmt {s : State} {v : Operand} {b : Nat} (hv : operandValue s.binds v = some b) (hb : b < 2 ^ 32)
    (name : Option Nat) :
    ∃ t, runLine (pseudoGetfmt name v) s = .next t ∧ t.out.rs = 0b00 ∧ t.out.fmtOut.toNat = b / 64 % 2 := by
  obtain ⟨hword, hanswers⟩ := fdecHourReadsTheByteFormat
  obtain ⟨t, ht, hrs, hfmt⟩ := runLine_core_answered (applyPorts_a hv) hword (hanswers _) name
  refine ⟨t, ht, hrs, ?_⟩
  rw [lowByte_withA s 0x43 hb] at hfmt
  split at hfmt
  next hbit => obtain ⟨-, hfmt, -⟩ := hfmt; omega
  next hbit => obtain ⟨-, hfmt, -⟩ := hfmt; omega

theorem runLine_isvalid {s : State} {v : Operand} {b : Nat} (hv : operandValue s.binds v = some b) (hb : b < 2 ^ 32)
    (name : Option Nat) :
    ∃ t, runLine (pseudoIsvalid s.params name v) s = .next t ∧ t.out.rs = 0b00 ∧
      (s.params.validityLoc = .month → t.out.validOut.toNat = b / 128 % 2) ∧
      (s.params.validityLoc = .status → t.out.validOut.toNat = 1 - b / 128 % 2) := by
  cases hloc : s.params.validityLoc with
  | month =>
    obtain ⟨hword, hanswers⟩ := fdecMonthSplitsCov
    obtain ⟨t, ht, hrs, -, -, hvalid⟩ := runLine_core_answered (applyPorts_a hv) hword ((hanswers _).1 hloc) name
    rw [lowByte_withA s 0x46 hb] at hvalid
    exact ⟨t, by rw [pseudoIsvalid, hloc]; exact ht, hrs, fun _ => by omega, nofun⟩
  | status =>
    obtain ⟨hword, hanswers⟩ := fdecStatusReadsValidity
    obtain ⟨t, ht, hrs, -, hvalid⟩ := runLine_core_answered (applyPorts_a hv) hword ((hanswers _).1 hloc) name
    rw [lowByte_withA s 0x4E hb] at hvalid
    exact ⟨t, by rw [pseudoIsvalid, hloc]; exact ht, hrs, nofun, fun _ => by omega⟩

theorem operandValue_offset_of {binds : List (Nat × Bound)} {v : Operand} {x : Nat} (h : operandValue binds v = some x)
    (k : Nat) : operandValue binds (.offset k v) = some (k + x) := by
  rw [operandValue_offset, h, Option.map_some]

theorem runLine_leap2 {s : State} {v : Operand} {yy : Nat} (hv : operandValue s.binds v = some yy)
    (hyy : 2000 + yy < 2 ^ 32) (name : Option Nat) :
    ∃ t, runLine (pseudoLeap2 name v) s = .next t ∧ t.out.rs = 0b00 ∧
      t.out.y.toNat = if leapYear ((2000 + yy) % 65536) then 1 else 0 := by
  obtain ⟨hword, -, hanswers⟩ := leapIsTheGregorianRule
  have hports := applyPorts_a (operandValue_offset_of hv 2000)
  obtain ⟨t, ht, hrs, -, hy⟩ := runLine_core_answered hports hword (hanswers _) name
  rw [lowHalf_withA s 0x70 hyy] at hy
  exact ⟨t, ht, hrs, hy⟩

theorem runLine_mdays2 {s : State} {v w : Operand} {yy m : Nat} (hv : operandValue s.binds v = some yy)
    (hyy : 2000 + yy < 2 ^ 32) (hw : operandValue s.binds w = some m) (hlo : 1 ≤ m) (hhi : m ≤ 12) (name : Option Nat) :
    ∃ t, runLine (pseudoMdays2 name v w) s = .next t ∧ t.out.rs = 0b00 ∧
      t.out.y.toNat = daysInMonth ((2000 + yy) % 65536) m := by
  obtain ⟨hword, -, hanswers⟩ := mdaysGivesTheMonthLength
  have hports : applyPorts s.binds [(.a, .offset 2000 v), (.b, w)] s.inp =
      some { withA s (2000 + yy) with b := BitVec.ofNat 8 m } := by
    rw [applyPorts_cons (operandValue_offset_of hv 2000), applyPorts_cons hw]
    rfl
  have hmonth : (BitVec.ofNat 8 m).toNat = m := ofNat_toNat_of_lt (by omega)
  have hbranch := hanswers { s with inp := { withA s (2000 + yy) with b := BitVec.ofNat 8 m, cmd := 0x80 } }
  simp only [hmonth, hlo, hhi, and_self, if_true] at hbranch
  obtain ⟨t, ht, hrs, -, hy⟩ := runLine_core_answered hports hword hbranch name
  exact ⟨t, ht, hrs, hy.trans (congrArg (daysInMonth · m) (lowHalf_withA s 0x80 hyy))⟩

/-- Settles O6: each pseudo-instruction is a line of one command, whose answer is settled. -/
theorem pseudoInstructionsExpand : Obligations.PseudoInstructionsExpand := by
  unfold Obligations.PseudoInstructionsExpand
  refine ⟨fun s name v b hv hb => ⟨runLine_getfmt hv hb name, ?_⟩,
    fun s name v yy hv hyy => ⟨runLine_leap2 hv hyy name, ?_⟩⟩
  · obtain ⟨t, ht, hrs, hmonth, hstatus⟩ := runLine_isvalid hv hb name
    refine ⟨t, ht, hrs, ?_⟩
    split
    next hloc => exact hmonth hloc
    next hloc => exact hstatus hloc
  · exact fun w m hw hlo hhi => runLine_mdays2 hv hyy hw hlo hhi name

end Sys2Proof.Proofs
end

section
/-!
TOEPOCH after FROMEPOCH (42_epoch_converter.md R226, R228): the fields of a local time, summed again, are that time.
-/

namespace Sys2Proof.Proofs

open Sys2Proof Sys2Proof.Machine Sys2Proof.Claims

/-- The fields hold the local time `loc`, on the `d`th of month `m` of year `y`, its hour as CONTRACT reads it back. -/
structure HoldsLocal (c : CalendarValue) (fmt : Bit) (loc y m d : Nat) : Prop where
  sec : c.sec.toNat = loc % 60
  min : c.min.toNat = loc / 60 % 60
  hour : toEpochHour .contract c fmt = loc / 3600 % 24
  day : c.day.toNat = d
  mon : c.mon.toNat = m
  yr : c.yr.toNat = y - 2000

/-- Summed under CONTRACT, the fields of a local time are that time less the timezone. -/
theorem HoldsLocal.epochSum_eq {c : CalendarValue} {fmt : Bit} {loc y m d : Nat} (h : HoldsLocal c fmt loc y m d)
    (hdate : IsDate (loc / 86400) y m d) (hy : 2000 ≤ y) (tz : Int) :
    epochSum .contract c fmt tz = loc - 3600 * tz := by
  have hyear : 2000 + (y - 2000) = y := by omega
  have hsum := hdate.sum_eq
  have hd := hdate.day_ge
  rw [Proofs.epochSum_eq, dayNumber, timeOfDay, h.sec, h.min, h.hour, h.day, h.mon, h.yr, hyear]
  omega

/-- CONTRACT converts a formatted hour back. -/
theorem hour24_hour12 (h : Nat) : hour24 .contract (hour12 h) (h / 12) = h := by
  simp only [hour24, hour12]
  split <;> omega

/-- The hour and AM/PM of a local time, in either format, are read back under CONTRACT. -/
theorem toEpochHour_of_formatted {c : CalendarValue} {fmt : Bit} {h : Nat}
    (hhr : c.hr.toNat = if fmt = 1 then hour12 h else h) (hampm : fmt = 1 → c.ampm.toNat = h / 12) :
    toEpochHour .contract c fmt = h := by
  rw [toEpochHour_eq, hhr]
  split
  next hfmt => rw [hampm hfmt, hour24_hour12]
  next => rfl

theorem IsDate.year_range {n y m d : Nat} (h : IsDate n y m d) (hlo : 10957 ≤ n) (hhi : n ≤ 47481) :
    2000 ≤ y ∧ y ≤ 2099 := by
  have hnext := h.lt_nextYear
  have hsum := h.sum_eq
  constructor
  · by_contra hy
    have hmono := daysBeforeYear_mono (show y + 1 ≤ 2000 by omega)
    rw [daysBeforeYear_2000] at hmono
    omega
  · by_contra hy
    have hmono := daysBeforeYear_mono (show 2100 ≤ y by omega)
    rw [daysBeforeYear_2100] at hmono
    omega

/-- The output ports hold local time `loc`, on the `d`th of month `m` of year `y`, as FROMEPOCH formats it
(42_epoch_converter.md R228, R235). -/
structure PortsHoldDate (o : Outputs) (fmt : Bit) (loc y m d : Nat) : Prop where
  sec : o.cal.sec.toNat = loc % 60
  min : o.cal.min.toNat = loc / 60 % 60
  hr : o.cal.hr.toNat = if fmt = 1 then hour12 (loc / 3600 % 24) else loc / 3600 % 24
  ampm : fmt = 1 → o.ampmOut.toNat = loc / 3600 % 24 / 12
  wd : o.cal.wd.toNat = weekdayOf (loc / 86400)
  day : o.cal.day.toNat = d
  mon : o.cal.mon.toNat = m
  yr : o.cal.yr.toNat = y - 2000

theorem fromepochOutputs_holdDate (s : State) {loc y m d : Nat} (hdate : IsDate (loc / 86400) y m d)
    (hy : 2000 ≤ y ∧ y ≤ 2099) :
    PortsHoldDate (fromepochOutputs s (dateFields loc s.inp.fmt (twoDigitYear y) m d)) s.inp.fmt loc y m d := by
  obtain ⟨hsec, hmin, hhr, hwd, hday, hmon⟩ := driveCalendar_dateFields_toNat (undriven s).cal hdate s.inp.fmt
    (twoDigitYear y)
  refine ⟨hsec, hmin, hhr, fun hfmt => ?_, hwd, hday, hmon, driveCalendar_dateFields_yr_toNat _ hy⟩
  have hpm : (dateFields loc s.inp.fmt (twoDigitYear y) m d).ampm = if 12 ≤ loc / 3600 % 24 then 1 else 0 := by
    simp only [dateFields, hfmt, true_and]
  refine (congrArg BitVec.toNat hpm).trans ?_
  split
  · exact (show 1 = loc / 3600 % 24 / 12 by omega)
  · exact (show 0 = loc / 3600 % 24 / 12 by omega)

/-- Put on the input ports, what FROMEPOCH drives holds the local time, whatever the hundredths and cov beside it. -/
theorem PortsHoldDate.holdsLocal {o : Outputs} {fmt : Bit} {loc y m d : Nat} (h : PortsHoldDate o fmt loc y m d)
    (hs : Byte) (cov : Bit) : HoldsLocal (calendarWith o.cal hs o.ampmOut cov) fmt loc y m d :=
  ⟨h.sec, h.min, toEpochHour_of_formatted h.hr h.ampm, h.day, h.mon, h.yr⟩

/-- The local day of a time in 2000-2099 (42_epoch_converter.md R238). -/
theorem exists_date_of_local {loc : Nat} (hlo : 946684800 ≤ loc) (hhi : loc ≤ 4102444799) :
    ∃ y m d, IsDate (loc / 86400) y m d ∧ 2000 ≤ y ∧ y ≤ 2099 := by
  have hdate := isDate_split (loc / 86400)
  exact ⟨_, _, _, hdate, hdate.year_range (by omega) (by omega)⟩

/-- Settles O42: FROMEPOCH's calendar ports hold the local time, whose sum is the epoch it was made of. -/
theorem toepochInvertsFromepoch : Obligations.ToepochInvertsFromepoch := by
  unfold Obligations.ToepochInvertsFromepoch
  intro s hrule hlo hhi
  obtain ⟨loc, hloc⟩ := Int.eq_ofNat_of_zero_le (by omega : 0 ≤ (s.inp.a.toNat : Int) + 3600 * hours s.inp.tz)
  obtain ⟨y, m, d, hdate, hy⟩ := exists_date_of_local (loc := loc) (by omega) (by omega)
  have hholds := (fromepochOutputs_holdDate s hdate hy).holdsLocal 0 0
  have hmon := hholds.mon
  refine ⟨_, exec_fromepoch_of_date hloc (by omega) hdate, _,
    exec_toepoch_of_month (hmon.symm ▸ hdate.month_ge) (hmon.symm ▸ hdate.month_le), BitVec.eq_of_toNat_eq ?_⟩
  have hsum := hholds.epochSum_eq hdate hy.1 (hours s.inp.tz)
  rw [← hrule] at hsum
  refine (congrArg (fun z => (BitVec.ofInt 32 z).toNat) hsum).trans ?_
  have hwrap := ofInt32_toNat (loc - 3600 * hours s.inp.tz)
  omega

end Sys2Proof.Proofs
end

section
/-!
How a host operation runs on a stopped device and a working transport (48_host_interface.md R286): one rule per thing it
does, each handing the numbers it read or was answered to what follows.
-/

namespace Sys2Proof.Proofs

open Sys2Proof Sys2Proof.Machine Sys2Proof.Claims

/-- From `s` to `t` an operation has only read registers and asked the CORE. -/
structure Observed (s t : State) : Prop where
  unwritten : Unwritten s t
  premises : SamePremises s t

theorem Observed.refl (s : State) : Observed s s := ⟨Unwritten.refl s, rfl, rfl, rfl⟩

theorem Observed.trans {s t u : State} (h : Observed s t) (h' : Observed t u) : Observed s u :=
  ⟨h.unwritten.trans h'.unwritten, h.premises.trans h'.premises⟩

theorem quiet_of_samePremises {s t : State} (h : Quiet s) (hst : SamePremises s t) : Quiet t :=
  ⟨hst.deviceStopped.trans h.1, hst.linkUp.trans h.2⟩

/-- The operation completes in a state with the property. -/
def Ends (P : State → Prop) (r : Result) : Prop := ∃ t, r = .next t ∧ P t

theorem Ends.mono {P Q : State → Prop} {r : Result} (h : Ends P r) (hPQ : ∀ t, P t → Q t) : Ends Q r := by
  obtain ⟨t, ht, hP⟩ := h
  exact ⟨t, ht, hPQ t hP⟩

theorem Ends.andThen {P Q : State → Prop} {r : Result} {f : State → Result} (h : Ends P r)
    (hf : ∀ t, P t → Ends Q (f t)) : Ends Q (andThen r f) := by
  obtain ⟨t, rfl, hP⟩ := h
  exact hf t hP

/-- The command completes with outputs that have the property, whatever else it drives. -/
def Tells (i : Instr) (s : State) (P : Outputs → Prop) : Prop := ∃ driven, Answers i s driven P

theorem tells_of_answers {i : Instr} {s : State} {driven : List OutPort} {P Q : Outputs → Prop}
    (h : Answers i s driven P) (hPQ : ∀ o, P o → Q o) : Tells i s Q := by
  obtain ⟨t, ht, hframe, hrs, hfree, hP⟩ := h
  exact ⟨driven, t, ht, hframe, hrs, hfree, hPQ _ hP⟩

theorem Tells.mono {i : Instr} {s : State} {P Q : Outputs → Prop} (h : Tells i s P) (hPQ : ∀ o, P o → Q o) :
    Tells i s Q := by
  obtain ⟨_, h⟩ := h
  exact tells_of_answers h hPQ

/-! Reads, transactions, returns. -/

theorem ends_memRead {s : State} (hq : Quiet s) {a : RegAddr} {n : Nat} (ha : admitted a.toNat n = true) :
    Ends (fun t => Observed s t ∧ ∀ k, k < n → t.rd[k]? = some (Memory.read s.mem (a.toNat + k))) (memRead a n s) := by
  obtain ⟨hstopped, hup⟩ := hq
  have hend := admitted_end_le ha
  refine ⟨_, memRead_eq hup ha, ⟨unwritten_afterRead a n s, rfl, rfl, rfl⟩, fun k hk => ?_⟩
  refine (returnedBytes_getElem? _ _ (by omega) hk _).trans ?_
  rw [hstopped, if_pos rfl]

theorem ends_withRegister {P : State → Prop} {s t : State} (hq : Quiet s) (hst : Observed s t) {a : RegAddr}
    {f : Byte → State → Result} (ha : admitted a.toNat 1 = true)
    (hf : ∀ u, Observed s u → Ends P (f (Memory.read s.mem a.toNat) u)) : Ends P (withRegister a t f) := by
  refine (ends_memRead (quiet_of_samePremises hq hst.premises) ha).andThen ?_
  rintro u ⟨htu, hrd⟩
  have hbyte : u.rd.headD 0 = Memory.read s.mem a.toNat := by
    rw [← hst.unwritten.1, List.headD_eq_head?_getD, List.head?_eq_getElem?, hrd 0 Nat.one_pos]
    rfl
  rw [hbyte]
  exact hf u (hst.trans htu)

theorem ends_issue {P : State → Prop} {Q : Outputs → Prop} {s t : State} (hst : Observed s t) {i : Instr} {c : Byte}
    {inp : Inputs} {f : State → Result} (hc : EncodedAs i c) (ha : Tells i { t with inp := { inp with cmd := c } } Q)
    (hf : ∀ u, Observed s u → u.inp = { inp with cmd := c } → Q u.out → Ends P (f u)) :
    Ends P (andThen (issue c inp t) f) := by
  obtain ⟨driven, ha⟩ := ha
  obtain ⟨o, ho, -, hQ⟩ := issue_answered hc ha
  rw [ho]
  exact hf _ (hst.trans ⟨Unwritten.refl t, rfl, rfl, rfl⟩) rfl hQ

/-- The operation returned `r`, having written nothing since `s`. -/
def ReturnsUnwritten (r : HostReturn) (s t : State) : Prop := t.ret = some r ∧ Unwritten s t

theorem ends_returnWith {s t : State} (hst : Observed s t) (r : HostReturn) :
    Ends (ReturnsUnwritten r s) (returnWith r t) := ⟨_, rfl, rfl, hst.unwritten⟩

/-! Writes and the re-assertion of the validity. -/

/-- From `s` to `t` an operation has made one write, of the bytes `v` from register `a` on. -/
structure Written (a : RegAddr) (v : List Byte) (s t : State) : Prop where
  mem : t.mem = storedBytes s.mem a v
  count : writeCount t.trace = writeCount s.trace + 1
  premises : SamePremises s t

theorem ends_memWrite {s t : State} (hq : Quiet s) (hst : Observed s t) {a : RegAddr} {v : List Byte}
    (ha : admitted a.toNat v.length = true) : Ends (Written a v s) (memWrite a v t) := by
  obtain ⟨-, hup⟩ := quiet_of_samePremises hq hst.premises
  obtain ⟨⟨hmem, hcount⟩, hpremises⟩ := hst
  refine ⟨_, memWrite_eq hup ha, congrArg (storedBytes · a v) hmem, ?_, hpremises.trans ⟨rfl, rfl, rfl⟩⟩
  rw [← hcount]
  exact List.countP_cons_of_pos (addrByte_write a).1

theorem ends_memWrite_one {s t : State} (hq : Quiet s) (hst : Observed s t) {a : RegAddr}
    (ha : admitted a.toNat 1 = true) (b : Byte) : Ends (Written a [b] s) (memWrite a [b] t) :=
  ends_memWrite (v := [b]) hq hst ha

theorem Written.stored_eq {a : RegAddr} {v : List Byte} {s t : State} (h : Written a v s t)
    (ha : admitted a.toNat v.length = true) (x : Nat) :
    stored t x = ((if a.toNat ≤ x then v[x - a.toNat]? else none).map (·.toNat)).getD (stored s x) := by
  have hend := admitted_end_le ha
  rw [stored, h.mem, read_storedBytes _ (by omega)]
  cases (if a.toNat ≤ x then v[x - a.toNat]? else none) <;> rfl

theorem Written.stored_one {a : RegAddr} {b : Byte} {s t : State} (h : Written a [b] s t)
    (ha : admitted a.toNat 1 = true) (x : Nat) : stored t x = if x = a.toNat then b.toNat else stored s x := by
  rw [h.stored_eq ha]
  split
  next hle =>
    obtain ⟨k, rfl⟩ := Nat.exists_eq_add_of_le hle
    rw [Nat.add_sub_cancel_left]
    cases k with
    | zero => exact (if_pos rfl).symm
    | succ k => rw [if_neg (by omega)]; rfl
  next hlt => rw [if_neg (by omega)]; rfl

/-- What register `x` holds after the validity is re-asserted (48_host_interface.md R296). -/
def revalidated (s : State) (x : Nat) : Nat :=
  match s.params.validityLoc with
  | .month => if x = 0x06 then stored s x % 128 + 128 else stored s x
  | .status => if x = 0x0E then stored s x % 128 else stored s x

/-- From `s` to `t` the validity has been re-asserted, by one write. -/
structure Revalidated (s t : State) : Prop where
  stored_eq : ∀ x, stored t x = revalidated s x
  count : writeCount t.trace = writeCount s.trace + 1
  premises : SamePremises s t

theorem or_top_bit_toNat (b : Byte) : (b ||| 0x80).toNat = b.toNat % 128 + 128 := by
  revert b
  decide

/-- The low byte of `Y`, where `Y` holds a byte. -/
theorem setWidth_byte_toNat {y : Scalar} {n : Nat} (hy : y.toNat = n) (hn : n < 256) : (y.setWidth 8).toNat = n := by
  rw [BitVec.toNat_setWidth, hy, Nat.mod_eq_of_lt hn]

theorem revalidated_of_month {s : State} (h : s.params.validityLoc = .month) (x : Nat) :
    revalidated s x = if x = 0x06 then stored s 0x06 % 128 + 128 else stored s x := by
  simp only [revalidated, h]
  split
  next hx => rw [hx]
  next => rfl

theorem revalidated_of_status {s : State} (h : s.params.validityLoc = .status) (x : Nat) :
    revalidated s x = if x = 0x0E then stored s 0x0E % 128 else stored s x := by
  simp only [revalidated, h]
  split
  next hx => rw [hx]
  next => rfl

/-- A write of the re-asserted byte is the re-assertion. -/
theorem Written.toRevalidated {a : RegAddr} {b : Byte} {s t : State} (h : Written a [b] s t)
    (ha : admitted a.toNat 1 = true) (hb : ∀ x, revalidated s x = if x = a.toNat then b.toNat else stored s x) : Revalidated s t :=
  ⟨fun x => (h.stored_one ha x).trans (hb x).symm, h.count, h.premises⟩

theorem ends_assertValid {s : State} (hq : Quiet s) : Ends (Revalidated s) (assertValid s) := by
  cases hloc : s.params.validityLoc with
  | month =>
    simp only [assertValid, hloc]
    refine ends_withRegister hq (Observed.refl s) (by decide) fun t hst => ?_
    refine (ends_memWrite_one hq hst (by decide) _).mono fun u hu => ?_
    refine hu.toRevalidated (by decide) fun x => ?_
    rw [revalidated_of_month hloc, or_top_bit_toNat]
    rfl
  | status =>
    simp only [assertValid, hloc]
    refine ends_withRegister hq (Observed.refl s) (by decide) fun t hst => ?_
    obtain ⟨hword, hanswers⟩ := fencStatusInvertsValidity
    have hloc' : t.params.validityLoc = .status := by rw [hst.premises.params, hloc]
    refine ends_issue hst hword ⟨_, (hanswers _).1 hloc'⟩ fun u hsu _ hy => ?_
    refine (ends_memWrite_one hq hsu (by decide) _).mono fun w hw => ?_
    refine hw.toRevalidated (by decide) fun x => ?_
    have hstatus : statusByte 1 (stored s 0x0E) = stored s 0x0E % 128 := rfl
    rw [revalidated_of_status hloc, setWidth_byte_toNat (hy.2.trans hstatus) (by omega)]
    rfl

/-- The end of a setter that writes the bytes `v` from register `a` on: the re-assertion and Changed follow. -/
structure WrittenValid (a : RegAddr) (v : List Byte) (s t : State) : Prop where
  ret : t.ret = some .changed
  stored_eq : ∃ u, Written a v s u ∧ ∀ x, stored t x = revalidated u x
  count : writeCount t.trace = writeCount s.trace + 2
  premises : SamePremises s t

theorem ends_memWrite_assertValid {s t : State} (hq : Quiet s) (hst : Observed s t) {a : RegAddr} {v : List Byte}
    (ha : admitted a.toNat v.length = true) :
    Ends (WrittenValid a v s) (andThen (memWrite a v t) fun u => andThen (assertValid u) (returnWith .changed)) := by
  refine (ends_memWrite hq hst ha).andThen fun u hu => ?_
  refine (ends_assertValid (quiet_of_samePremises hq hu.premises)).andThen fun w hw => ?_
  exact ⟨_, rfl, rfl, ⟨u, hu, hw.stored_eq⟩, hw.count.trans (congrArg (· + 1) hu.count),
    hu.premises.trans (hw.premises.trans ⟨rfl, rfl, rfl⟩)⟩

/-- A field write of `v` to register `a`, re-asserted, ended Changed. -/
def FieldWritten (s : State) (a v : Nat) (t : State) : Prop :=
  t.ret = some .changed ∧ (∀ x, stored t x = afterField s a v x) ∧ writeCount t.trace = writeCount s.trace + 2

theorem revalidated_eq_afterField {s t : State} {a v : Nat} (hparams : t.params = s.params)
    (ht : ∀ x, stored t x = if x = a then v else stored s x) (x : Nat) : revalidated t x = afterField s a v x := by
  cases hloc : s.params.validityLoc <;> simp only [revalidated, afterField, hparams, ht, hloc]

theorem ends_writeField {s t : State} (hq : Quiet s) (hst : Observed s t) {a : RegAddr} {b : Byte} {v : Nat}
    (ha : admitted a.toNat 1 = true) (hb : b.toNat = v) : Ends (FieldWritten s a.toNat v) (writeField a b t) := by
  refine (ends_memWrite_assertValid (v := [b]) hq hst ha).mono fun w hw => ?_
  obtain ⟨u, hu, hstored⟩ := hw.stored_eq
  refine ⟨hw.ret, fun x => (hstored x).trans ?_, hw.count⟩
  exact revalidated_eq_afterField hu.premises.params (fun x => hb ▸ hu.stored_one ha x) x

theorem fencLane_channel (k : Fin 8) : (fencLane k).channel = .cmd := by
  revert k
  decide

/-- Encode a value with the FENC of its lane and write its byte: the end of every field setter. -/
theorem ends_encode_write {s t : State} (hq : Quiet s) (hst : Observed s t) {a : RegAddr} {c : Byte} {inp : Inputs}
    {v : Nat} (k : Fin 8) (hc : encode (fencLane k) = c) (ha : admitted a.toNat 1 = true)
    (hv : laneByte { inp with cmd := c } k = v) :
    Ends (FieldWritten s a.toNat v) (andThen (issue c inp t) fun w => writeField a (w.out.y.setWidth 8) w) := by
  have hword : EncodedAs (fencLane k) c := by
    rw [← hc]
    exact encodedAs_encode (fencLane_channel k)
  refine ends_issue hst hword ⟨_, answers_fencLane _ k⟩ fun w hsw _ hy => ends_writeField hq hsw ha ?_
  rw [← hv]
  exact setWidth_byte_toNat hy.2 (laneByte_lt _ k)

end Sys2Proof.Proofs
end

section
/-!
The getters and the field setters (48_host_interface.md R288-R295, R298, R299): each by the rules in the order of its
definition, with the settled answers of the commands it issues.
-/

namespace Sys2Proof.Proofs

open Sys2Proof Sys2Proof.Machine Sys2Proof.Claims

/-! The hour and month registers as numbers. -/

/-- The hour an hour byte holds, by its own format (41_frame_codec.md R163). -/
def hourOf (h : Nat) : Nat := if h / 64 % 2 = 0 then weighed (h % 64) else weighed (h % 32)

/-- The AM/PM an hour byte holds, by its own format (41_frame_codec.md R163). -/
def ampmOf (h : Nat) : Nat := if h / 64 % 2 = 0 then 0 else h / 32 % 2

/-- The decoder's three answers on an hour byte, as numbers of the byte. -/
theorem hour_fields {b y fmt ampm : Nat}
    (h : if b / 64 % 2 = 0 then y = weighed (b % 64) ∧ fmt = 0 ∧ ampm = 0
      else y = weighed (b % 32) ∧ fmt = 1 ∧ ampm = b / 32 % 2) :
    y = hourOf b ∧ fmt = b / 64 % 2 ∧ ampm = ampmOf b := by
  rw [hourOf, ampmOf]
  split at h
  next hbit =>
    obtain ⟨rfl, rfl, rfl⟩ := h
    exact ⟨(if_pos hbit).symm, hbit.symm, (if_pos hbit).symm⟩
  next hbit =>
    obtain ⟨rfl, rfl, rfl⟩ := h
    exact ⟨(if_neg hbit).symm, by omega, (if_neg hbit).symm⟩

/-- What FDEC.HOUR says of an hour byte. -/
def TellsHour (b : Nat) (o : Outputs) : Prop :=
  o.y.toNat = hourOf b ∧ o.fmtOut.toNat = b / 64 % 2 ∧ o.ampmOut.toNat = ampmOf b

theorem tells_fdecHour (s : State) : Tells .fdecHour s (TellsHour (lowByte s)) := by
  have hfields := hour_fields (hourDec_ports (w := 32) (by decide) (operandByte s))
  rw [operandByte_toNat] at hfields
  exact ⟨[.y, .fmtOut, .ampmOut], answers_of_freePorts rfl rfl rfl hfields⟩

theorem tells_fdecMonth (s : State) : Tells .fdecMonth s fun o =>
    o.y.toNat = weighed (lowByte s % 128) ∧ o.covOut.toNat = lowByte s / 128 ∧
      (s.params.validityLoc = .month → o.validOut.toNat = lowByte s / 128) := by
  obtain ⟨hmonth, hstatus⟩ := fdecMonthSplitsCov.2 s
  cases hloc : s.params.validityLoc with
  | month => exact tells_of_answers (hmonth hloc) fun o ⟨⟨_, hy⟩, hcov, hvalid⟩ => ⟨hy, hcov, fun _ => hvalid⟩
  | status => exact tells_of_answers (hstatus hloc) fun o ⟨⟨_, hy⟩, hcov⟩ => ⟨hy, hcov, nofun⟩

/-- The number in `A[7:0]` when a command is issued with a byte on `A`. -/
theorem lowByte_zext32 (s : State) (inp : Inputs) (c b : Byte) :
    lowByte { s with inp := { inp with a := zext32 b, cmd := c } } = b.toNat := by
  rw [lowByte, zext32_toNat, Nat.mod_eq_of_lt b.isLt]

/-- A register is read and handed to an FDEC command: the start of every accessor. -/
theorem ends_decode {P : State → Prop} {Q : Nat → Outputs → Prop} {s : State} (hq : Quiet s) {a : RegAddr} {i : Instr}
    {c : Byte} {f : Byte → State → Result} (ha : admitted a.toNat 1 = true) (hc : EncodedAs i c)
    (hans : ∀ t, t.params = s.params → Tells i t (Q (lowByte t)))
    (hf : ∀ u, Observed s u → Q (stored s a.toNat) u.out → Ends P (f (Memory.read s.mem a.toNat) u)) :
    Ends P (withRegister a s fun b t => andThen (issueA c (zext32 b) t) (f b)) := by
  refine ends_withRegister hq (Observed.refl s) ha fun t hst => ?_
  refine ends_issue hst hc (hans _ hst.premises.params) fun u hsu _ hQ => hf u hsu ?_
  rwa [lowByte_zext32] at hQ

/-! Getters. -/

theorem bitToScalar_toNat (b : Bit) : (bitToScalar b).toNat = b.toNat := BitVec.toNat_setWidth_of_le (by decide)

theorem hostGet_ends {s : State} (hq : Quiet s) {a : RegAddr} {i : Instr} {c : Byte}
    {pick : Outputs → Scalar} {g : Nat → Nat} (ha : admitted a.toNat 1 = true) (hc : EncodedAs i c)
    (hans : ∀ t, t.params = s.params → Tells i t fun o => (pick o).toNat = g (lowByte t)) :
    Ends (ReturnsUnwritten (.value (BitVec.ofNat 32 (g (stored s a.toNat)))) s) (hostGet a c pick s) := by
  refine ends_decode (Q := fun b o => (pick o).toNat = g b) (f := fun _ u => returnValue (pick u.out) u) hq ha hc hans
    fun u hsu hpick => ?_
  have hvalue : pick u.out = BitVec.ofNat 32 (g (stored s a.toNat)) := by
    rw [← hpick, BitVec.ofNat_toNat, BitVec.setWidth_eq]
  rw [hvalue]
  exact ends_returnWith hsu _

theorem hostGet_straight_ends {s : State} (hq : Quiet s) {a : RegAddr} {c : Byte} {i : Instr}
    (ha : admitted a.toNat 1 = true) (hi : i ∈ [Instr.fdecHs, .fdecSec, .fdecMin, .fdecWday, .fdecDay, .fdecYear])
    (hc : EncodedAs i c) :
    Ends (ReturnsUnwritten (.value (BitVec.ofNat 32 (weighed (stored s a.toNat)))) s) (hostGet a c (·.y) s) := by
  obtain ⟨-, -, -, -, -, -, hans⟩ := straightFdecWeighsAllBits
  exact hostGet_ends hq ha hc fun t _ => tells_of_answers (hans i hi t) fun _ h => h.2

theorem hostGetValidity_ends {s : State} (hq : Quiet s) :
    (s.params.validityLoc = .month →
      Ends (ReturnsUnwritten (.value (BitVec.ofNat 32 (stored s 0x06 / 128))) s) (hostGetValidity s)) ∧
    (s.params.validityLoc = .status →
      Ends (ReturnsUnwritten (.value (BitVec.ofNat 32 (1 - stored s 0x0E / 128))) s) (hostGetValidity s)) := by
  constructor
  · intro hloc
    simp only [hostGetValidity, hloc]
    refine hostGet_ends (a := regMonth) (g := (· / 128)) hq (by decide) fdecMonthSplitsCov.1 fun t ht => ?_
    exact (tells_fdecMonth t).mono fun o ⟨_, _, hvalid⟩ =>
      (bitToScalar_toNat _).trans (hvalid ((congrArg Params.validityLoc ht).trans hloc))
  · intro hloc
    simp only [hostGetValidity, hloc]
    refine hostGet_ends (a := regStatus) (g := (1 - · / 128)) hq (by decide) fdecStatusReadsValidity.1 fun t ht => ?_
    exact tells_of_answers ((fdecStatusReadsValidity.2 t).1 ((congrArg Params.validityLoc ht).trans hloc))
      fun o ⟨_, hvalid⟩ => (bitToScalar_toNat _).trans hvalid

theorem hostGetCentury_ends {s : State} (hq : Quiet s) (hloc : s.params.validityLoc = .status) :
    Ends (ReturnsUnwritten (.value (BitVec.ofNat 32 (stored s 0x06 / 128))) s) (hostGetCentury s) := by
  simp only [hostGetCentury, hloc]
  refine hostGet_ends (a := regMonth) (g := (· / 128)) hq (by decide) fdecMonthSplitsCov.1 fun t _ => ?_
  exact (tells_fdecMonth t).mono fun o ⟨_, hcov, _⟩ => (bitToScalar_toNat _).trans hcov

/-- Settles O48: a getter returns what the FDEC command of its register answers. -/
theorem gettersReturnTheDecodedRegister : Obligations.GettersReturnTheDecodedRegister := by
  unfold Obligations.GettersReturnTheDecodedRegister
  intro s hq
  obtain ⟨hhs, hsec, hmin, hwday, hday, hyear, -⟩ := straightFdecWeighsAllBits
  have hstraight {a : RegAddr} {c : Byte} {i : Instr} := @hostGet_straight_ends s hq a c i
  refine ⟨?_, hstraight (a := 0x00) (by decide) (by decide) hhs, hstraight (a := 0x01) (by decide) (by decide) hsec,
    hstraight (a := 0x02) (by decide) (by decide) hmin, ?_, ?_, hstraight (a := 0x04) (by decide) (by decide) hwday,
    hstraight (a := 0x05) (by decide) (by decide) hday, ?_, hstraight (a := 0x07) (by decide) (by decide) hyear, ?_,
    hostGetCentury_ends hq, fun hloc => ?_⟩
  · refine hostGet_ends (a := regHour) (g := (· / 64 % 2)) (pick := fun o => bitToScalar o.fmtOut) hq (by decide)
      fdecHourReadsTheByteFormat.1 fun t _ => ?_
    exact (tells_fdecHour t).mono fun o ⟨_, hfmt, _⟩ => (bitToScalar_toNat _).trans hfmt
  · refine hostGet_ends (a := 0x03) (g := hourOf) (pick := (·.y)) hq (by decide)
      fdecHourReadsTheByteFormat.1 fun t _ => ?_
    exact (tells_fdecHour t).mono fun o ⟨hy, _, _⟩ => hy
  · refine hostGet_ends (a := 0x03) (g := ampmOf) (pick := fun o => bitToScalar o.ampmOut) hq (by decide)
      fdecHourReadsTheByteFormat.1 fun t _ => ?_
    exact (tells_fdecHour t).mono fun o ⟨_, _, hampm⟩ => (bitToScalar_toNat _).trans hampm
  · refine hostGet_ends (a := 0x06) (g := fun b => weighed (b % 128)) (pick := (·.y)) hq (by decide)
      fdecMonthSplitsCov.1 fun t _ => ?_
    exact (tells_fdecMonth t).mono fun o ⟨hy, _, _⟩ => hy
  · obtain ⟨hmonth, hstatus⟩ := hostGetValidity_ends hq
    cases hloc : s.params.validityLoc with
    | month => exact hmonth hloc
    | status => exact hstatus hloc
  · simp only [runCall, hostGetCentury, hloc]

/-! Setters. -/

theorem ends_if_pos {P : State → Prop} {c : Prop} [Decidable c] {q r : Result} (hc : c) (h : Ends P q) :
    Ends P (if c then q else r) := by
  rwa [if_pos hc]

theorem ends_if_neg {P : State → Prop} {c : Prop} [Decidable c] {q r : Result} (hc : ¬ c) (h : Ends P r) :
    Ends P (if c then q else r) := by
  rwa [if_neg hc]

theorem code_iff (v : Byte) : (v = 0 ∨ v = 1) ↔ v.toNat ≤ 1 := by
  revert v
  decide

theorem bit_eq_code_iff (b : Bit) (v : Byte) : b.setWidth 8 = v ↔ b.toNat = v.toNat := by
  rw [← BitVec.toNat_inj, BitVec.toNat_setWidth_of_le (by decide)]

theorem zext32_eq_iff (v : Byte) {y : Scalar} {n : Nat} (hy : y.toNat = n) : zext32 v = y ↔ v.toNat = n := by
  rw [← BitVec.toNat_inj, zext32_toNat, hy]

/-- The mode put in bit 6, the other bits kept (48_host_interface.md R289). -/
theorem put_mode_toNat (b : Byte) {mode : Byte} (h : mode = 0 ∨ mode = 1) :
    ((b &&& 0xBF) ||| (mode <<< 6)).toNat = b.toNat / 128 * 128 + mode.toNat * 64 + b.toNat % 64 := by
  obtain rfl | rfl := h
  · revert b; decide
  · revert b; decide

/-- The century put in bit 7, the month digits kept (48_host_interface.md R295). -/
theorem put_century_toNat (b : Byte) {c : Byte} (h : c = 0 ∨ c = 1) :
    ((b &&& 0x7F) ||| (c <<< 7)).toNat = b.toNat % 128 + 128 * c.toNat := by
  obtain rfl | rfl := h
  · revert b; decide
  · revert b; decide

/-- Settles O49: the stored format bit decides, and the byte written differs from the stored one in that bit. -/
theorem setFormatFlipsOneBit : Obligations.SetFormatFlipsOneBit := by
  unfold Obligations.SetFormatFlipsOneBit
  intro s mode hq
  have hstored : (formatBit (Memory.read s.mem 0x03)).toNat = stored s 0x03 / 64 % 2 := formatBit_toNat _
  refine ⟨fun hmode => ?_, fun hmode hsame => ?_, fun hmode hother => ?_⟩
  · exact ends_if_neg ((code_iff mode).not.mpr (by omega)) (ends_returnWith (Observed.refl s) .unchanged)
  · refine ends_if_pos ((code_iff mode).mpr hmode) (ends_withRegister hq (Observed.refl s) (by decide) fun t hst => ?_)
    exact ends_if_pos ((bit_eq_code_iff _ _).mpr (hstored.trans hsame)) (ends_returnWith hst .unchanged)
  · have hcode := (code_iff mode).mpr hmode
    refine ends_if_pos hcode (ends_withRegister hq (Observed.refl s) (by decide) fun t hst => ?_)
    refine ends_if_neg ((bit_eq_code_iff _ _).not.mpr (hstored.symm ▸ hother)) ?_
    exact ends_writeField hq hst (by decide) (put_mode_toNat _ hcode)

/-- A plain setter, by the lane its register and its calendar field belong to. -/
theorem hostSetPlain_ends {s : State} (hq : Quiet s) {a : RegAddr} {dec enc v : Byte} {i : Instr} {n : Nat}
    {put : CalendarValue → Byte → CalendarValue} (k : Fin 8) (ha : admitted a.toNat 1 = true)
    (hi : i ∈ [Instr.fdecHs, .fdecSec, .fdecMin, .fdecWday, .fdecDay, .fdecYear]) (hdec : EncodedAs i dec)
    (henc : encode (fencLane k) = enc)
    (hput : ∀ inp : Inputs, laneByte { inp with cal := put inp.cal v, cmd := enc } k = n) :
    (v.toNat = weighed (stored s a.toNat) →
      Ends (ReturnsUnwritten .unchanged s) (hostSetPlain a dec enc put v s)) ∧
    (v.toNat ≠ weighed (stored s a.toNat) → Ends (FieldWritten s a.toNat n) (hostSetPlain a dec enc put v s)) := by
  obtain ⟨-, -, -, -, -, -, hans⟩ := straightFdecWeighsAllBits
  have htells (t : State) : Tells i t fun o => o.y.toNat = weighed (lowByte t) :=
    tells_of_answers (hans i hi t) fun _ h => h.2
  constructor
  · intro hsame
    refine ends_decode (Q := fun b o => o.y.toNat = weighed b) hq ha hdec (fun t _ => htells t) fun u hsu hy => ?_
    exact ends_if_pos ((zext32_eq_iff v hy).mpr hsame) (ends_returnWith hsu .unchanged)
  · intro hother
    refine ends_decode (Q := fun b o => o.y.toNat = weighed b) hq ha hdec (fun t _ => htells t) fun u hsu hy => ?_
    exact ends_if_neg ((zext32_eq_iff v hy).not.mpr hother) (ends_encode_write hq hsu k henc ha (hput u.inp))

/-- Settles O50: the six plain setters are one operation on six lanes. -/
theorem plainSettersClampAndWrite : Obligations.PlainSettersClampAndWrite := by
  unfold Obligations.PlainSettersClampAndWrite
  intro x hx s v hq
  obtain ⟨hhs, hsec, hmin, hwday, hday, hyear, -⟩ := straightFdecWeighsAllBits
  simp only [plainSetters, List.mem_cons, List.not_mem_nil, or_false] at hx
  obtain rfl | rfl | rfl | rfl | rfl | rfl := hx
  · exact hostSetPlain_ends (a := 0x00) (put := fun c x => { c with hs := x }) hq 0 (by decide)
      (by decide) hhs rfl fun _ => rfl
  · exact hostSetPlain_ends (a := 0x01) (put := fun c x => { c with sec := x }) hq 1 (by decide)
      (by decide) hsec rfl fun _ => rfl
  · exact hostSetPlain_ends (a := 0x02) (put := fun c x => { c with min := x }) hq 2 (by decide)
      (by decide) hmin rfl fun _ => rfl
  · exact hostSetPlain_ends (a := 0x04) (put := fun c x => { c with wd := x }) hq 4 (by decide)
      (by decide) hwday rfl fun _ => rfl
  · exact hostSetPlain_ends (a := 0x05) (put := fun c x => { c with day := x }) hq 5 (by decide)
      (by decide) hday rfl fun _ => rfl
  · exact hostSetPlain_ends (a := 0x07) (put := fun c x => { c with yr := x }) hq 7 (by decide)
      (by decide) hyear rfl fun _ => rfl

/-- The start of the accessors of the hour register. -/
theorem ends_decode_hour {P : State → Prop} {s : State} (hq : Quiet s) {f : Byte → State → Result}
    (hf : ∀ u, Observed s u → TellsHour (stored s 0x03) u.out → Ends P (f (Memory.read s.mem 0x03) u)) :
    Ends P (withRegister regHour s fun b t => andThen (issueA 0x43 (zext32 b) t) (f b)) :=
  ends_decode (a := regHour) hq (by decide) fdecHourReadsTheByteFormat.1 (fun t _ => tells_fdecHour t) hf

/-- AM/PM has no bit in an H24 byte. -/
theorem hourByte_ampmOf (h v : Nat) : hourByte (h / 64 % 2) v (ampmOf h) = hourByte (h / 64 % 2) v (h / 32 % 2) := by
  rw [ampmOf]
  split
  next hfmt => rw [hfmt]; rfl
  next => rfl

/-- What FDEC.HOUR answers goes back into FENC.HOUR beside the new hour. -/
theorem hostSetHour_ends {s : State} (hq : Quiet s) (v : Byte) :
    (v.toNat = hourOf (stored s 0x03) → Ends (ReturnsUnwritten .unchanged s) (hostSetHour v s)) ∧
    (v.toNat ≠ hourOf (stored s 0x03) →
      Ends (FieldWritten s 0x03 (hourByte (stored s 0x03 / 64 % 2) v.toNat (stored s 0x03 / 32 % 2)))
        (hostSetHour v s)) := by
  constructor
  · intro hsame
    refine ends_decode_hour hq fun u hsu hu => ?_
    exact ends_if_pos ((zext32_eq_iff v hu.1).mpr hsame) (ends_returnWith hsu .unchanged)
  · intro hother
    refine ends_decode_hour hq fun u hsu hu => ?_
    obtain ⟨hy, hfmt, hampm⟩ := hu
    have hbyte : hourByte u.out.fmtOut.toNat v.toNat u.out.ampmOut.toNat =
        hourByte (stored s 0x03 / 64 % 2) v.toNat (stored s 0x03 / 32 % 2) := by
      rw [hfmt, hampm]
      exact hourByte_ampmOf (stored s 0x03) v.toNat
    exact ends_if_neg ((zext32_eq_iff v hy).not.mpr hother) (ends_encode_write hq hsu 3 rfl (by decide) hbyte)

/-- Settles O51: the two ends of setHour. -/
theorem setHourKeepsFormatAndAmPm : Obligations.SetHourKeepsFormatAndAmPm := by
  unfold Obligations.SetHourKeepsFormatAndAmPm
  intro s v hq
  exact hostSetHour_ends hq v

/-- The three rejections in the order setAmPm makes them, and what FDEC.HOUR answers in H12 beside the new code. -/
theorem hostSetAmPm_ends {s : State} (hq : Quiet s) {v : Byte} {h : Nat} (hh : h = stored s 0x03) :
    ((h / 64 % 2 = 0 ∨ 1 < v.toNat ∨ v.toNat = h / 32 % 2) →
      Ends (ReturnsUnwritten .unchanged s) (hostSetAmPm v s)) ∧
    (¬ (h / 64 % 2 = 0 ∨ 1 < v.toNat ∨ v.toNat = h / 32 % 2) →
      Ends (FieldWritten s 0x03 (hourByte 1 (weighed (h % 32)) v.toNat)) (hostSetAmPm v s)) := by
  constructor
  · intro hreject
    refine ends_decode_hour hq fun u hsu hu => ?_
    obtain ⟨-, hfmt, hampm⟩ : TellsHour h u.out := hh ▸ hu
    have hstop := ends_returnWith hsu .unchanged
    by_cases hh24 : u.out.fmtOut = fmtH24
    · exact ends_if_pos hh24 hstop
    · refine ends_if_neg hh24 ?_
      have hh12 : ¬ h / 64 % 2 = 0 := fun h0 => hh24 (BitVec.eq_of_toNat_eq (hfmt.trans h0))
      by_cases hcode : v = 0 ∨ v = 1
      · have hle := (code_iff v).mp hcode
        have hpm : u.out.ampmOut.toNat = h / 32 % 2 := hampm.trans (if_neg hh12)
        refine ends_if_neg (not_not.mpr hcode) (ends_if_pos ?_ hstop)
        exact ((bit_eq_code_iff _ v).mpr (by omega)).symm
      · exact ends_if_pos hcode hstop
  · intro haccept
    refine ends_decode_hour hq fun u hsu hu => ?_
    obtain ⟨hy, hfmt, hampm⟩ : TellsHour h u.out := hh ▸ hu
    have hh12 : ¬ h / 64 % 2 = 0 := fun h0 => haccept (.inl h0)
    have hh24 : u.out.fmtOut ≠ fmtH24 := fun he => hh12 (hfmt.symm.trans (congrArg BitVec.toNat he))
    have hpm : u.out.ampmOut.toNat = h / 32 % 2 := hampm.trans (if_neg hh12)
    have hhour : u.out.y.toNat = weighed (h % 32) := hy.trans (if_neg hh12)
    refine ends_if_neg hh24 (ends_if_neg (not_not.mpr ((code_iff v).mpr (by omega))) (ends_if_neg ?_ ?_))
    · intro he
      have := (bit_eq_code_iff _ v).mp he.symm
      omega
    · refine ends_encode_write hq hsu 3 rfl (by decide) ?_
      have hbound := weighed_le (show h % 32 < 256 by omega)
      have hcode : (v.setWidth 1).toNat = v.toNat := by rw [BitVec.toNat_setWidth]; omega
      rw [← setWidth_byte_toNat hhour (by omega), ← hcode]
      rfl

/-- Settles O52: the two ends of setAmPm. -/
theorem setAmPmNeedsTwelveHourFormat : Obligations.SetAmPmNeedsTwelveHourFormat := by
  unfold Obligations.SetAmPmNeedsTwelveHourFormat
  intro s v hq
  exact hostSetAmPm_ends hq rfl

/-- What FDEC.MONTH says of the stored month byte. -/
def TellsMonth (b : Nat) (o : Outputs) : Prop := o.y.toNat = weighed (b % 128) ∧ o.covOut.toNat = b / 128

theorem tells_fdecMonth_digits (s : State) : Tells .fdecMonth s (TellsMonth (lowByte s)) :=
  (tells_fdecMonth s).mono fun _ ⟨hy, hcov, _⟩ => ⟨hy, hcov⟩

/-- The start of the accessors of the month register. -/
theorem ends_decode_month {P : State → Prop} {s : State} (hq : Quiet s) {f : Byte → State → Result}
    (hf : ∀ u, Observed s u → TellsMonth (stored s 0x06) u.out → Ends P (f (Memory.read s.mem 0x06) u)) :
    Ends P (withRegister regMonth s fun b t => andThen (issueA 0x46 (zext32 b) t) (f b)) :=
  ends_decode (a := regMonth) hq (by decide) fdecMonthSplitsCov.1 (fun t _ => tells_fdecMonth_digits t) hf

theorem hostSetMonth_ends {s : State} (hq : Quiet s) (v : Byte) :
    (v.toNat = weighed (stored s 0x06 % 128) → Ends (ReturnsUnwritten .unchanged s) (hostSetMonth v s)) ∧
    (v.toNat ≠ weighed (stored s 0x06 % 128) →
      Ends (FieldWritten s 0x06 (monthByte v.toNat (stored s 0x06 / 128))) (hostSetMonth v s)) := by
  constructor
  · intro hsame
    refine ends_decode_month hq fun u hsu hu => ?_
    exact ends_if_pos ((zext32_eq_iff v hu.1).mpr hsame) (ends_returnWith hsu .unchanged)
  · intro hother
    refine ends_decode_month hq fun u hsu hu => ?_
    obtain ⟨hy, hcov⟩ := hu
    refine ends_if_neg ((zext32_eq_iff v hy).not.mpr hother) (ends_encode_write hq hsu 6 rfl (by decide) ?_)
    exact congrArg (monthByte v.toNat) hcov

theorem hostSetCentury_ends {s : State} (hq : Quiet s) (c : Byte) :
    ((s.params.validityLoc = .month ∨ 1 < c.toNat ∨ c.toNat = stored s 0x06 / 128) →
      Ends (ReturnsUnwritten .unchanged s) (hostSetCentury c s)) ∧
    (¬ (s.params.validityLoc = .month ∨ 1 < c.toNat ∨ c.toNat = stored s 0x06 / 128) →
      Ends (FieldWritten s 0x06 (stored s 0x06 % 128 + 128 * c.toNat)) (hostSetCentury c s)) := by
  have hcov : (covBit (Memory.read s.mem 0x06)).toNat = stored s 0x06 / 128 := covBit_toNat _
  cases hloc : s.params.validityLoc with
  | month =>
    simp only [hostSetCentury, hloc, true_or, not_true_eq_false, false_imp_iff, and_true, forall_const]
    exact ends_returnWith (Observed.refl s) .unchanged
  | status =>
    simp only [hostSetCentury, hloc, reduceCtorEq, false_or]
    constructor
    · intro hreject
      by_cases hcode : c = 0 ∨ c = 1
      · have hle := (code_iff c).mp hcode
        refine ends_if_pos hcode (ends_withRegister hq (Observed.refl s) (by decide) fun t hst => ?_)
        exact ends_if_pos ((bit_eq_code_iff _ c).mpr (hcov.trans (by omega))) (ends_returnWith hst .unchanged)
      · exact ends_if_neg hcode (ends_returnWith (Observed.refl s) .unchanged)
    · intro haccept
      have hcode : c = 0 ∨ c = 1 := (code_iff c).mpr (by omega)
      refine ends_if_pos hcode (ends_withRegister hq (Observed.refl s) (by decide) fun t hst => ?_)
      refine ends_if_neg (fun he => haccept (.inr ?_)) ?_
      · exact ((bit_eq_code_iff _ c).mp he).symm.trans hcov
      · exact ends_writeField hq hst (by decide) (put_century_toNat _ hcode)

/-- Settles O53: the two setters of register 0x06. -/
theorem monthSettersKeepTheSibling : Obligations.MonthSettersKeepTheSibling := by
  unfold Obligations.MonthSettersKeepTheSibling
  intro s v hq b
  obtain ⟨hmonthSame, hmonthOther⟩ := hostSetMonth_ends hq v
  obtain ⟨hcenturyReject, hcenturyAccept⟩ := hostSetCentury_ends hq v
  exact ⟨hmonthSame, hmonthOther, hcenturyReject, hcenturyAccept⟩

/-! The trickle charger. -/

/-- Settles O56: the closed set, the stored code, and a write of the code with nothing after it. -/
theorem trickleAcceptsTheClosedSet : Obligations.TrickleAcceptsTheClosedSet := by
  unfold Obligations.TrickleAcceptsTheClosedSet
  intro s code hq codes
  have hset : (trickleCodes s.params).map BitVec.toNat = codes := by
    simp only [codes, trickleCodes, trickle250dCode]
    cases s.params.trickle250d <;> rfl
  have hmem : code.toNat ∈ codes ↔ code ∈ trickleCodes s.params := by
    rw [← hset]
    exact List.mem_map_of_injective BitVec.toNat_injective
  have hbyte : Memory.read s.mem 0x0F = code ↔ code.toNat = stored s 0x0F := by
    rw [← BitVec.toNat_inj, eq_comm]
    rfl
  rw [hmem]
  refine ⟨fun hout => ?_, fun hin hsame => ?_, fun hin hother => ?_⟩
  · simp only [runCall, hostSetTrickle, if_neg hout, returnWith]
  · refine ends_if_pos hin (ends_withRegister hq (Observed.refl s) (by decide) fun t hst => ?_)
    exact ends_if_pos (hbyte.mpr hsame) (ends_returnWith hst .unchanged)
  · refine ends_if_pos hin (ends_withRegister hq (Observed.refl s) (by decide) fun t hst => ?_)
    refine ends_if_neg (hbyte.not.mpr hother) ((ends_memWrite_one hq hst (by decide) code).andThen fun u hu => ?_)
    exact ⟨_, rfl, rfl, hu.stored_one (by decide), hu.count⟩

end Sys2Proof.Proofs
end

section
/-!
The epoch accessors (48_host_interface.md R297), and that a setter which returns Changed leaves the validity flag true
(R296).
-/

namespace Sys2Proof.Proofs

open Sys2Proof Sys2Proof.Machine Sys2Proof.Claims

/-! getEpoch. -/

/-- The stored frame (20_memory.md R74). -/
def storedFrame (s : State) : RawFrame where
  hundredths := Memory.read s.mem 0x00
  second := Memory.read s.mem 0x01
  minute := Memory.read s.mem 0x02
  hour := Memory.read s.mem 0x03
  weekday := Memory.read s.mem 0x04
  day := Memory.read s.mem 0x05
  month := Memory.read s.mem 0x06
  year := Memory.read s.mem 0x07

theorem frameOfBytes_eq_storedFrame {bs : List Byte} {s : State}
    (h : ∀ k, k < 8 → bs[k]? = some (Memory.read s.mem ((0x00 : RegAddr).toNat + k))) :
    frameOfBytes bs = storedFrame s := by
  have hbyte {k : Nat} (hk : k < 8) : bs.getD k 0 = Memory.read s.mem ((0x00 : RegAddr).toNat + k) := by
    rw [List.getD_eq_getElem?_getD, h k hk, Option.getD_some]
  exact rawFrame_eq (hbyte (k := 0) (by decide)) (hbyte (k := 1) (by decide)) (hbyte (k := 2) (by decide))
    (hbyte (k := 3) (by decide)) (hbyte (k := 4) (by decide)) (hbyte (k := 5) (by decide)) (hbyte (k := 6) (by decide))
    (hbyte (k := 7) (by decide))

/-- The output ports hold what FRMDEC decodes from the frame, its date and its time of day (41_frame_codec.md R187). -/
structure DecodesFrame (r : RawFrame) (o : Outputs) : Prop where
  sec : o.cal.sec.toNat = weighed r.second.toNat
  min : o.cal.min.toNat = weighed r.minute.toNat
  hr : o.cal.hr.toNat = hourOf r.hour.toNat
  fmt : o.fmtOut.toNat = r.hour.toNat / 64 % 2
  ampm : o.ampmOut.toNat = ampmOf r.hour.toNat
  day : o.cal.day.toNat = weighed r.day.toNat
  mon : o.cal.mon.toNat = weighed (r.month.toNat % 128)
  yr : o.cal.yr.toNat = weighed r.year.toNat

theorem tells_frmdec (s : State) : Tells .frmdec s (DecodesFrame s.inp.raw) := by
  refine tells_of_answers (frmdecDecodesTheFrame.2.2 s) fun o ho => ?_
  obtain ⟨-, -, hsec, hmin, -, hday, hyr, hhour, hmon, -, -⟩ := ho
  obtain ⟨hhr, hfmt, hampm⟩ := hour_fields hhour
  exact ⟨hsec, hmin, hhr, hfmt, hampm, hday, hmon, hyr⟩

theorem tells_toepoch {s : State} (hlo : 1 ≤ s.inp.cal.mon.toNat) (hhi : s.inp.cal.mon.toNat ≤ 12) :
    Tells .toepoch s fun o =>
      (o.y.toNat : Int) = epochSum s.params.hour12Rule s.inp.cal s.inp.fmt (hours s.inp.tz) % 2 ^ 32 := by
  have hanswers := toepochSumsTheSteps.2.2 s
  rw [if_pos ⟨hlo, hhi⟩] at hanswers
  exact tells_of_answers hanswers fun _ h => h.2

/-- The status byte, whatever it is, is read without a write. -/
theorem ends_withStatusByte {P : State → Prop} {s t : State} (hq : Quiet s) (hst : Observed s t)
    {f : Byte → State → Result} (hf : ∀ b u, Observed s u → Ends P (f b u)) : Ends P (withStatusByte t f) := by
  unfold withStatusByte
  split
  · exact hf 0 t hst
  · exact ends_withRegister hq hst (by decide) fun u hsu => hf _ u hsu

/-- The epoch of the stored frame, as getEpoch computes it. -/
def EpochOfFrame (s : State) (tz : Byte) (e : Scalar) : Prop :=
  ∃ o cov, DecodesFrame (storedFrame s) o ∧
    (e.toNat : Int) =
      epochSum s.params.hour12Rule (calendarWith o.cal o.cal.hs o.ampmOut cov) o.fmtOut (hours tz) % 2 ^ 32

theorem hostGetEpoch_ends {s : State} (hq : Quiet s) (tz : Byte) (hlo : 1 ≤ weighed (stored s 0x06 % 128))
    (hhi : weighed (stored s 0x06 % 128) ≤ 12) :
    Ends (fun t => ∃ e, EpochOfFrame s tz e ∧ ReturnsUnwritten (.value e) s t) (hostGetEpoch tz s) := by
  refine (ends_memRead hq (a := 0x00) (n := 8) (by decide)).andThen ?_
  rintro t ⟨hst, hrd⟩
  rw [frameOfBytes_eq_storedFrame hrd]
  refine ends_withStatusByte hq hst fun st u hsu => ?_
  refine ends_issue hsu frmdecDecodesTheFrame.1 (tells_frmdec _) fun v hsv _ hdec => ?_
  have hmon : v.out.cal.mon.toNat = weighed (stored s 0x06 % 128) := hdec.mon
  refine ends_issue hsv toepochSumsTheSteps.1 (tells_toepoch (hmon ▸ hlo) (hmon ▸ hhi)) fun w hsw _ hy => ?_
  obtain ⟨x, hx, hret⟩ := ends_returnWith hsw (.value w.out.y)
  exact ⟨x, hx, w.out.y, ⟨v.out, v.inp.cal.cov, hdec, by rw [← hsv.premises.params]; exact hy⟩, hret⟩

theorem bit_eq_one_iff (b : Bit) : b = 1 ↔ b.toNat = 1 := by
  revert b
  decide

/-- The hour toEpoch uses for a stored hour byte, by the byte's own format. -/
def epochHourOf (rule : Hour12Rule) (h : Nat) : Nat :=
  if h / 64 % 2 = 0 then weighed (h % 64) else hour24 rule (weighed (h % 32)) (h / 32 % 2)

theorem DecodesFrame.toEpochHour_eq {r : RawFrame} {o : Outputs} (h : DecodesFrame r o) (rule : Hour12Rule) (hs : Byte)
    (cov : Bit) :
    toEpochHour rule (calendarWith o.cal hs o.ampmOut cov) o.fmtOut = epochHourOf rule r.hour.toNat := by
  have hhr : (calendarWith o.cal hs o.ampmOut cov).hr.toNat = hourOf r.hour.toNat := h.hr
  have hampm : (calendarWith o.cal hs o.ampmOut cov).ampm.toNat = ampmOf r.hour.toNat := h.ampm
  simp only [Proofs.toEpochHour_eq, bit_eq_one_iff, h.fmt, hhr, hampm, epochHourOf, hourOf, ampmOf]
  by_cases hh24 : r.hour.toNat / 64 % 2 = 0
  · simp only [hh24, if_true, Nat.zero_ne_one, if_false]
  · have hh12 : r.hour.toNat / 64 % 2 = 1 := by omega
    simp only [hh12, Nat.one_ne_zero, if_true, if_false]

/-- Settles O57: the sum TOEPOCH makes of what FRMDEC decoded, read off the stored bytes. -/
theorem getEpochConvertsTheStoredFrame : Obligations.GetEpochConvertsTheStoredFrame := by
  unfold Obligations.GetEpochConvertsTheStoredFrame
  intro s tz hq hlo hhi h y hour sum
  obtain ⟨t, ht, e, ⟨o, cov, hdec, he⟩, hret, hmem, hcount⟩ := hostGetEpoch_ends hq tz hlo hhi
  refine ⟨t, e, ht, hret, he.trans (congrArg (· % (2 : Int) ^ 32) ?_), hmem, hcount⟩
  rw [epochSum_eq, dayNumber, timeOfDay, hdec.toEpochHour_eq]
  simp only [calendarWith, hdec.sec, hdec.min, hdec.day, hdec.mon, hdec.yr]
  rfl

/-! setEpoch. -/

/-- The cov setEpoch writes (48_host_interface.md R297). -/
def covWritten (s : State) : Nat :=
  match s.params.validityLoc with
  | .month => 1
  | .status => stored s 0x06 / 128

theorem ends_withCov {P : State → Prop} {s t : State} (hq : Quiet s) (hst : Observed s t) {f : Bit → State → Result}
    (hf : ∀ cov u, Observed s u → cov.toNat = covWritten s → Ends P (f cov u)) : Ends P (withCov t f) := by
  cases hloc : s.params.validityLoc with
  | month =>
    simp only [withCov, hst.premises.params, hloc]
    exact hf 1 t hst (by simp only [covWritten, hloc]; rfl)
  | status =>
    simp only [withCov, hst.premises.params, hloc]
    refine ends_withRegister hq hst (by decide) fun u hsu => ?_
    refine ends_issue hsu fdecMonthSplitsCov.1 (tells_fdecMonth_digits _) fun v hsv _ hv => hf _ v hsv ?_
    have hcov := hv.2
    rw [lowByte_zext32] at hcov
    simp only [covWritten, hloc]
    exact hcov

theorem hours_eq_toInt (tz : Byte) : tz.toInt = hours tz :=
  operandTz_eq_hours { State.reset with inp := { State.resetInputs with tz := tz } }

theorem epochOutside_iff (e : Scalar) (tz : Byte) :
    epochOutside e tz = true ↔
      (e.toNat : Int) + 3600 * hours tz < 946684800 ∨ 4102444799 < (e.toNat : Int) + 3600 * hours tz := by
  simp only [epochOutside, hours_eq_toInt, Int.mul_comm (hours tz), Bool.or_eq_true, decide_eq_true_eq]

theorem tells_frmenc (s : State) : Tells .frmenc s fun o => o.raw = frameEnc s.inp.cal s.inp.fmt :=
  ⟨.stOut :: OutPort.rawAll, answers_of_freePorts (exec_frmenc s) rfl rfl rfl⟩

theorem tells_fromepoch {s : State} {loc y m d : Nat} (hloc : (s.inp.a.toNat : Int) + 3600 * hours s.inp.tz = loc)
    (hlt : loc < 2 ^ 32) (hdate : IsDate (loc / 86400) y m d) (hy : 2000 ≤ y ∧ y ≤ 2099) :
    Tells .fromepoch s fun o => PortsHoldDate o s.inp.fmt loc y m d :=
  ⟨_, answers_fromepoch hloc hlt hdate (fromepochOutputs_holdDate s hdate hy)⟩

/-- The bytes of a frame by their addresses. -/
theorem bytesOfFrame_getElem? (r : RawFrame) (x : Nat) :
    (bytesOfFrame r)[x]? = if h : x < 8 then some (rawLane r ⟨x, h⟩) else none := by
  split
  next h => interval_cases x <;> rfl
  next h => exact List.getElem?_eq_none (Nat.le_of_not_lt h)

/-- A frame whose bytes are given lane by lane is written to the registers 0x00 to 0x07. -/
theorem Written.stored_frame {r : RawFrame} {s u : State} (h : Written 0x00 (bytesOfFrame r) s u) {g : Nat → Nat}
    (hr : ∀ k : Fin 8, (rawLane r k).toNat = g k) (x : Nat) : stored u x = if x < 8 then g x else stored s x := by
  have hzero : (0x00 : RegAddr).toNat = 0 := rfl
  rw [h.stored_eq (admitted_frame r), hzero, if_pos (Nat.zero_le x), Nat.sub_zero,
    bytesOfFrame_getElem?]
  split
  next hx => exact hr ⟨x, hx⟩
  next hx => rfl

theorem encClamped_toNat_of_mem {v : Byte} {n lo hi : Nat} (hv : v.toNat = n) (hhi : hi ≤ 99) (hlo : lo ≤ n)
    (hn : n ≤ hi) : (encClamped v lo hi).toNat = packed n := by
  rw [encClamped_toNat v hhi, hv, clamped_of_mem hlo hn]

theorem weekdayOf_mem (n : Nat) : 1 ≤ weekdayOf n ∧ weekdayOf n ≤ 7 := by
  unfold weekdayOf
  omega

theorem hour12_mem (h : Nat) : 1 ≤ hour12 h ∧ hour12 h ≤ 12 := by
  unfold hour12
  split <;> omega

/-- The hour byte setEpoch writes, in the stored format. -/
theorem hourByte_of_date {s : State} {o : Outputs} {fmt : Bit} {loc y m d : Nat} (ho : PortsHoldDate o fmt loc y m d)
    (hstored : fmt.toNat = stored s 0x03 / 64 % 2) :
    hourByte fmt.toNat o.cal.hr.toNat o.ampmOut.toNat = frameRegister s loc y m d 0x03 := by
  have hday : loc / 3600 % 24 ≤ 23 := by omega
  obtain ⟨hlo, hhi⟩ := hour12_mem (loc / 3600 % 24)
  simp only [frameRegister, ← hstored, hourByte, ho.hr]
  obtain hfmt | hfmt := BitVec.eq_zero_or_eq_one fmt
  · simp only [hfmt]
    exact congrArg packed (clamped_of_mem (Nat.zero_le _) hday)
  · rw [ho.ampm hfmt]
    simp only [hfmt]
    exact congrArg (packed · + 32 * (loc / 3600 % 24 / 12) + 64) (clamped_of_mem hlo hhi)

theorem frameRegister_month (s : State) (loc y m d : Nat) :
    frameRegister s loc y m d 0x06 = packed m + 128 * covWritten s := by
  cases hloc : s.params.validityLoc <;> simp only [frameRegister, covWritten, hloc]

/-- The frame FRMENC packs from the date, in the stored format and with the cov setEpoch writes. -/
theorem frameEnc_eq_frameRegister {s : State} {o : Outputs} {fmt cov : Bit} {loc y m d : Nat}
    (hdate : IsDate (loc / 86400) y m d) (hy : 2000 ≤ y ∧ y ≤ 2099) (ho : PortsHoldDate o fmt loc y m d)
    (hstored : fmt.toNat = stored s 0x03 / 64 % 2) (hcov : cov.toNat = covWritten s) (k : Fin 8) :
    (rawLane (frameEnc (calendarWith o.cal 0 o.ampmOut cov) fmt) k).toNat = frameRegister s loc y m d k := by
  have hday := hdate.day_le.trans (daysInMonth_le y m)
  obtain ⟨hwdlo, hwdhi⟩ := weekdayOf_mem (loc / 86400)
  match k with
  | 0 => exact encClamped_toNat_of_mem (n := 0) rfl (by decide) (Nat.le_refl 0) (by decide)
  | 1 => exact encClamped_toNat_of_mem ho.sec (by decide) (Nat.zero_le _) (by omega)
  | 2 => exact encClamped_toNat_of_mem ho.min (by decide) (Nat.zero_le _) (by omega)
  | 3 => exact (hourEnc_toNat fmt o.cal.hr o.ampmOut).trans (hourByte_of_date ho hstored)
  | 4 => exact encClamped_toNat_of_mem ho.wd (by decide) hwdlo hwdhi
  | 5 => exact encClamped_toNat_of_mem ho.day (by decide) hdate.day_ge hday
  | 6 =>
    refine ((monthEnc_toNat o.cal.mon cov).trans ?_).trans (frameRegister_month s loc y m d).symm
    rw [monthByte, ho.mon, hcov, clamped_of_mem hdate.month_ge hdate.month_le]
  | 7 => exact encClamped_toNat_of_mem ho.yr (by decide) (Nat.zero_le _) (by omega)

theorem frameRegister_of_other (s : State) (loc y m d : Nat) {x : Nat} (hx : 8 ≤ x) (hne : x ≠ 0x0E) :
    frameRegister s loc y m d x = stored s x := by
  unfold frameRegister
  split
  case h_10 => rfl
  all_goals omega

/-- Outside the frame's registers setEpoch leaves all but the status byte as it was. -/
theorem frame_or_stored {s : State} {loc y m d x : Nat} (hne : x ≠ 0x0E) :
    (if x < 8 then frameRegister s loc y m d x else stored s x) = frameRegister s loc y m d x := by
  split
  next => rfl
  next hx => exact (frameRegister_of_other s loc y m d (Nat.le_of_not_lt hx) hne).symm

/-- The re-assertion after the frame is written: the month byte carries it already under MONTH, and under STATUS it
clears bit 7 of the status byte. -/
theorem revalidated_frame {s u : State} {loc y m d : Nat} (hdate : IsDate (loc / 86400) y m d)
    (hparams : u.params = s.params) (hu : ∀ x, stored u x = if x < 8 then frameRegister s loc y m d x else stored s x)
    (x : Nat) : revalidated u x = frameRegister s loc y m d x := by
  have hmonth : stored u 0x06 = packed m + 128 * covWritten s := (hu 0x06).trans (frameRegister_month s loc y m d)
  have hstatus : stored u 0x0E = stored s 0x0E := hu 0x0E
  have hdigits : packed m ≤ 0x12 := packed_le_packed hdate.month_le
  cases hloc : s.params.validityLoc with
  | month =>
    have hcov : covWritten s = 1 := by simp only [covWritten, hloc]
    rw [revalidated_of_month (by rw [hparams, hloc])]
    split
    next hx => rw [hx, hmonth, frameRegister_month, hcov]; omega
    next hx =>
      by_cases hne : x = 0x0E
      · rw [hne, hstatus]
        simp only [frameRegister, hloc]
      · rw [hu, frame_or_stored hne]
  | status =>
    rw [revalidated_of_status (by rw [hparams, hloc])]
    split
    next hx =>
      rw [hx, hstatus]
      simp only [frameRegister, hloc]
    next hne => rw [hu, frame_or_stored hne]

theorem hostSetEpoch_ends {s : State} (hq : Quiet s) {e : Scalar} {tz : Byte} {loc y m d : Nat}
    (hloc : (e.toNat : Int) + 3600 * hours tz = loc) (hlo : 946684800 ≤ loc) (hhi : loc ≤ 4102444799)
    (hdate : IsDate (loc / 86400) y m d) (hy : 2000 ≤ y ∧ y ≤ 2099) :
    Ends (fun t => t.ret = some .changed ∧ SamePremises s t ∧ writeCount t.trace = writeCount s.trace + 2 ∧
      ∀ x, stored t x = frameRegister s loc y m d x) (hostSetEpoch e tz s) := by
  have hinside : ¬ epochOutside e tz = true := by
    rw [epochOutside_iff]
    omega
  refine ends_if_neg hinside ?_
  refine ends_decode_hour hq fun g hsg hg => ?_
  obtain ⟨-, hfmt, -⟩ := hg
  refine ends_issue hsg fromepochFindsTheDate.1 (tells_fromepoch hloc (by omega) hdate hy)
    fun u hsu _ (hu : PortsHoldDate u.out g.out.fmtOut loc y m d) => ?_
  refine ends_withCov hq hsu fun cov v hsv hcov => ends_withStatusByte hq hsv fun st w hsw => ?_
  refine ends_issue hsw frmencEncodesTheFrame.1 (tells_frmenc _) fun x hsx _ hx => ?_
  refine (ends_memWrite_assertValid hq hsx (admitted_frame x.out.raw)).mono fun t ht => ?_
  obtain ⟨z, hz, hstored⟩ := ht.stored_eq
  refine ⟨ht.ret, ht.premises, ht.count, fun r => (hstored r).trans ?_⟩
  refine revalidated_frame hdate hz.premises.params (fun r => ?_) r
  refine hz.stored_frame (g := frameRegister s loc y m d) (fun k => ?_) r
  rw [hx]
  exact frameEnc_eq_frameRegister hdate hy hu hfmt hcov k

theorem flagValid_of {t : State} (hmonth : t.params.validityLoc = .month → stored t 0x06 / 128 = 1)
    (hstatus : t.params.validityLoc = .status → stored t 0x0E / 128 = 0) : flagValid t := by
  unfold flagValid
  split
  next hloc => exact hmonth hloc
  next hloc => exact hstatus hloc

theorem flagValid_of_frame {s t : State} {loc y m d : Nat} (hdate : IsDate (loc / 86400) y m d)
    (hparams : t.params = s.params) (ht : ∀ x, stored t x = frameRegister s loc y m d x) : flagValid t := by
  refine flagValid_of (fun hloc => ?_) fun hloc => ?_ <;> rw [hparams] at hloc
  · have hdigits : packed m ≤ 0x12 := packed_le_packed hdate.month_le
    have hcov : covWritten s = 1 := by simp only [covWritten, hloc]
    rw [ht, frameRegister_month, hcov]
    omega
  · simp only [ht, frameRegister, hloc]
    omega

/-! getEpoch after setEpoch. -/

/-- Either form of an hour byte setEpoch writes is read back under CONTRACT. -/
theorem epochHourOf_written {h : Nat} (hh : h ≤ 23) (c : Prop) [Decidable c] :
    epochHourOf .contract (if c then packed h else packed (hour12 h) + 32 * (h / 12) + 64) = h := by
  have hh24 : packed h ≤ 0x23 := packed_le_packed hh
  have hh12 : packed (hour12 h) ≤ 0x12 := packed_le_packed (hour12_mem h).2
  rw [epochHourOf]
  split
  · rw [if_pos (by omega), Nat.mod_eq_of_lt (by omega), weighed_packed]
  · have hhour : (packed (hour12 h) + 32 * (h / 12) + 64) % 32 = packed (hour12 h) := by omega
    have hpm : (packed (hour12 h) + 32 * (h / 12) + 64) / 32 % 2 = h / 12 := by omega
    rw [if_neg (by omega), hhour, hpm, weighed_packed, hour24_hour12]

theorem month_digits_of_frame {s t : State} {loc y m d : Nat} (hdate : IsDate (loc / 86400) y m d)
    (ht : ∀ x, stored t x = frameRegister s loc y m d x) : weighed (stored t 0x06 % 128) = m := by
  have hdigits : packed m ≤ 0x12 := packed_le_packed hdate.month_le
  have hmod : (packed m + 128 * covWritten s) % 128 = packed m := by omega
  rw [ht, frameRegister_month, hmod, weighed_packed]

/-- What FRMDEC decodes from the written frame is the local time it was written for. -/
theorem holdsLocal_of_frame {s t : State} {o : Outputs} {loc y m d : Nat} (hdate : IsDate (loc / 86400) y m d)
    (ht : ∀ x, stored t x = frameRegister s loc y m d x) (hdec : DecodesFrame (storedFrame t) o) (hs : Byte)
    (cov : Bit) :
    HoldsLocal (calendarWith o.cal hs o.ampmOut cov) o.fmtOut loc y m d := by
  have hfield {x n : Nat} (hx : frameRegister s loc y m d x = packed n) : weighed (stored t x) = n := by
    rw [ht, hx, weighed_packed]
  refine ⟨hdec.sec.trans (hfield (x := 1) rfl), hdec.min.trans (hfield (x := 2) rfl), ?_,
    hdec.day.trans (hfield (x := 5) rfl), hdec.mon.trans (month_digits_of_frame hdate ht),
    hdec.yr.trans (hfield (x := 7) rfl)⟩
  refine (hdec.toEpochHour_eq .contract hs cov).trans ((congrArg (epochHourOf .contract) (ht 0x03)).trans ?_)
  exact epochHourOf_written (by omega) _

theorem hostGetEpoch_of_frame {s t : State} (hq : Quiet t) {e : Scalar} {tz : Byte} {loc y m d : Nat}
    (hloc : (e.toNat : Int) + 3600 * hours tz = loc) (hdate : IsDate (loc / 86400) y m d) (hy : 2000 ≤ y)
    (hrule : t.params.hour12Rule = .contract) (ht : ∀ x, stored t x = frameRegister s loc y m d x) :
    Ends (ReturnsUnwritten (.value e) t) (hostGetEpoch tz t) := by
  have hmonth := month_digits_of_frame hdate ht
  have hlo := hdate.month_ge
  have hhi := hdate.month_le
  refine (hostGetEpoch_ends hq tz (hmonth.symm ▸ hlo) (hmonth.symm ▸ hhi)).mono ?_
  rintro u ⟨e', ⟨o, cov, hdec, he'⟩, hret⟩
  rw [hrule, (holdsLocal_of_frame hdate ht hdec _ cov).epochSum_eq hdate hy] at he'
  have hsame : e' = e := BitVec.eq_of_toNat_eq (by omega)
  rwa [← hsame]

/-- Settles O58: outside the range by the test setEpoch makes first; inside, the written frame holds the one date of the
local time, and under CONTRACT its epoch is read back. -/
theorem setEpochThenGetEpoch : Obligations.SetEpochThenGetEpoch := by
  unfold Obligations.SetEpochThenGetEpoch
  intro s e tz hq loc
  refine ⟨fun hout => ?_, fun hlo hhi => ?_⟩
  · have houtside := (epochOutside_iff e tz).mpr hout
    simp only [runCall, hostSetEpoch, houtside, if_true, returnWith]
  · obtain ⟨n, hn⟩ := Int.eq_ofNat_of_zero_le (show 0 ≤ loc by omega)
    obtain ⟨y, m, d, hdate, hy⟩ := exists_date_of_local (loc := n) (by omega) (by omega)
    obtain ⟨t, ht, hret, hsame, hcount, hregs⟩ := hostSetEpoch_ends hq hn (by omega) (by omega) hdate hy
    have hday : loc.toNat / 86400 = n / 86400 := by rw [hn]; rfl
    refine ⟨t, ht, hret, flagValid_of_frame hdate hsame.params hregs, ⟨y, m, d, hy.1, hy.2, hdate.month_ge,
      hdate.month_le, hdate.day_ge, hdate.day_le, hdate.sum_eq.trans hday.symm, ?_⟩, hcount, fun hrule => ?_⟩
    · rw [hn]
      exact hregs
    · obtain ⟨u, hu, hvalue, -⟩ := hostGetEpoch_of_frame (quiet_of_samePremises hq hsame) hn hdate hy.1
        (by rw [hsame.params, hrule]) hregs
      exact ⟨u, hu, hvalue⟩

/-! The validity flag after a setter. -/

theorem flagValid_of_afterField {s t : State} {a v : Nat} (hparams : t.params = s.params)
    (ht : ∀ x, stored t x = afterField s a v x) : flagValid t := by
  refine flagValid_of (fun hloc => ?_) fun hloc => ?_ <;> rw [hparams] at hloc
  · simp only [ht, afterField, hloc, if_true]
    omega
  · simp only [ht, afterField, hloc, if_true]
    omega

/-- A field setter ends in one of the two ways the statements of R289 and R292 to R295 describe. -/
def EndsAsFieldSetter (c : HostCall) (s : State) : Prop := EndsUnchanged c s ∨ ∃ a v, EndsWritten c s a v

theorem EndsAsFieldSetter.of_cases {c : HostCall} {s : State} {p : Prop} {a v : Nat} (hno : p → EndsUnchanged c s)
    (hyes : ¬ p → EndsWritten c s a v) : EndsAsFieldSetter c s := by
  by_cases h : p
  · exact .inl (hno h)
  · exact .inr ⟨a, v, hyes h⟩

theorem plainSetter_ends {x : (Byte → HostCall) × Nat × Nat × Nat} (hx : x ∈ plainSetters) {s : State} (hq : Quiet s)
    (v : Byte) : EndsAsFieldSetter (x.1 v) s := by
  obtain ⟨hsame, hother⟩ := plainSettersClampAndWrite x hx s v hq
  exact .of_cases hsame hother

theorem setFormat_ends {s : State} (hq : Quiet s) (mode : Byte) : EndsAsFieldSetter (.setFormat mode) s := by
  obtain ⟨hreject, hsame, hother⟩ := setFormatFlipsOneBit s mode hq
  by_cases hmode : mode.toNat ≤ 1
  · exact .of_cases (hsame hmode) (hother hmode)
  · exact .inl (hreject (by omega))

/-- Every field setter ends so, each by its own statement. -/
theorem fieldSetter_ends {c : HostCall} {s : State} (hc : isSetter c = true)
    (htrickle : ∀ x, c ≠ .setTrickleChargerMode x) (hepoch : ∀ e tz, c ≠ .setEpoch e tz) (hq : Quiet s) : EndsAsFieldSetter c s := by
  cases c <;> simp only [isSetter, Bool.false_eq_true] at hc
  case setFormat mode => exact setFormat_ends hq mode
  case setHundredths v => exact plainSetter_ends (x := (.setHundredths, 0x00, 0, 99)) (by simp [plainSetters]) hq v
  case setSecond v => exact plainSetter_ends (x := (.setSecond, 0x01, 0, 59)) (by simp [plainSetters]) hq v
  case setMinute v => exact plainSetter_ends (x := (.setMinute, 0x02, 0, 59)) (by simp [plainSetters]) hq v
  case setWeekday v => exact plainSetter_ends (x := (.setWeekday, 0x04, 1, 7)) (by simp [plainSetters]) hq v
  case setDay v => exact plainSetter_ends (x := (.setDay, 0x05, 1, 31)) (by simp [plainSetters]) hq v
  case setYear v => exact plainSetter_ends (x := (.setYear, 0x07, 0, 99)) (by simp [plainSetters]) hq v
  case setHour v =>
    obtain ⟨hsame, hother⟩ := setHourKeepsFormatAndAmPm s v hq
    exact .of_cases hsame hother
  case setAmPm v =>
    obtain ⟨hreject, haccept⟩ := setAmPmNeedsTwelveHourFormat s v hq
    exact .of_cases hreject haccept
  case setMonth v =>
    obtain ⟨hsame, hother, -⟩ := monthSettersKeepTheSibling s v hq
    exact .of_cases hsame hother
  case setCentury v =>
    obtain ⟨-, -, hreject, haccept⟩ := monthSettersKeepTheSibling s v hq
    exact .of_cases hreject haccept
  case setEpoch e tz => exact absurd rfl (hepoch e tz)
  case setTrickleChargerMode x => exact absurd rfl (htrickle x)

theorem flagValid_of_fieldSetter {c : HostCall} {s t : State} (h : EndsAsFieldSetter c s) (ht : runCall c s = .next t)
    (hret : t.ret = some .changed) : flagValid t := by
  obtain ⟨u, hu, hunchanged, -⟩ | ⟨a, v, u, hu, -, hregs, -⟩ := h <;>
    obtain rfl := Host.Outcome.next.inj (hu.symm.trans ht)
  · nomatch hunchanged.symm.trans hret
  · exact flagValid_of_afterField (runCall_keeps c s u ht).premises.params hregs

theorem flagValid_of_setEpoch {s t : State} {e : Scalar} {tz : Byte} (hq : Quiet s)
    (ht : runCall (.setEpoch e tz) s = .next t) (hret : t.ret = some .changed) : flagValid t := by
  obtain ⟨houtside, hinside⟩ := setEpochThenGetEpoch s e tz hq
  by_cases hout : (e.toNat : Int) + 3600 * hours tz < 946684800 ∨ 4102444799 < (e.toNat : Int) + 3600 * hours tz
  · obtain rfl := Host.Outcome.next.inj ((houtside hout).symm.trans ht)
    nomatch hret
  · obtain ⟨u, hu, -, hvalid, -⟩ := hinside (by omega) (by omega)
    obtain rfl := Host.Outcome.next.inj (hu.symm.trans ht)
    exact hvalid

/-- Settles O55: a field setter that returns Changed ended as its own statement says, re-asserted, and so did
setEpoch. -/
theorem changedFieldsAreMarkedValid : Obligations.ChangedFieldsAreMarkedValid := by
  unfold Obligations.ChangedFieldsAreMarkedValid
  intro c s t hc htrickle hq ht hret
  by_cases hepoch : ∀ e tz, c ≠ .setEpoch e tz
  · exact flagValid_of_fieldSetter (fieldSetter_ends hc htrickle hepoch hq) ht hret
  · simp only [ne_eq, not_forall, not_not] at hepoch
    obtain ⟨e, tz, rfl⟩ := hepoch
    exact flagValid_of_setEpoch hq ht hret

end Sys2Proof.Proofs
end
